-- ==== Sys2Proof/Word.lean ====
section
/-! DEFINITION. The word types of the block (00_scope.md R9, 10_state.md R21 to R25, 30_encoding.md R60). Every datum
is unsigned; there is no signed quantity anywhere in the block. -/

namespace Sys2Proof

/-- One byte, an unsigned 8-bit integer (R9). -/
abbrev Byte := BitVec 8

/-- The width of `idx` and `len_r`, 7 bits (R22, R23). -/
abbrev Index := BitVec 7

/-- The width of the input symbol `rx_sym`, 9 bits (R60). -/
abbrev SymbolWord := BitVec 9

end Sys2Proof
end

