-- ==== Sys2Proof/Config.lean ====
section
/-! DEFINITION. The hardwired constants of 00_scope.md R6, the open parameters of the environment of R7, and the free
values of the model: opaque constants without a body, so that no proof can lean on what they are. -/

namespace Sys2Proof.Config

/-- `START`, the start marker, frame byte 0 (R6, R62). -/
def start : Byte := 0x02

/-- `LEN_MIN`, the least legal value of the LEN byte (R6, R63). -/
def lenMin : Nat := 3

/-- `LEN_MAX`, the greatest legal value of the LEN byte (R6, R63). -/
def lenMax : Nat := 64

/-- `FRAME_MIN`, the least total framed length in bytes, START included (R6). -/
def frameMin : Nat := 4

/-- `FRAME_MAX`, the greatest total framed length in bytes, START included; also the number of locations of the frame
buffer (R6, R40). -/
def frameMax : Nat := 65

/-- `PAYLOAD_MAX`, the greatest number of payload bytes (R6). -/
def payloadMax : Nat := 61

/-- `PARSE_MIN`, the least frame length `parseState` accepts (R6, R132). -/
def parseMin : Nat := 7

/-- `SUM_MOD`, the modulus of the checksum (R6, R85). -/
def sumMod : Nat := 256

/-- Line feed, quiet noise in HUNT (R74; the value is the spec's G1, from general knowledge). -/
def lineFeed : Byte := 0x0A

/-- Carriage return, quiet noise in HUNT (R74; the value is the spec's G1, from general knowledge). -/
def carriageReturn : Byte := 0x0D

/-- Free value. What a location of the frame buffer holds that nothing has written: the spec leaves `buf` unspecified
at reset and asks a model to give it no value or an arbitrary one (R34, R161, I2). Safe. Log entry 3. -/
opaque staleByte : Nat → Byte

/-- Free value. The byte a function would read at an index that its operand sequence does not have. The spec states no
result there: `classify` is given for validated frames only (R120). Safe. Log entry 4. -/
opaque absentByte : List Byte → Nat → Byte

/-- `READ_TIMEOUT`, an open parameter of the environment (R7, D3): no rule of the block reads it. -/
opaque readTimeout : Nat

/-- `QCAP_ACK`, an open parameter of the environment (R7, D16): no rule of the block reads it. -/
opaque qcapAck : Nat

/-- `QCAP_EVENT`, an open parameter of the environment (R7, D16): no rule of the block reads it. -/
opaque qcapEvent : Nat

/-- `QCAP_GETREPLY`, an open parameter of the environment (R7, D16): no rule of the block reads it. -/
opaque qcapGetReply : Nat

end Sys2Proof.Config
end

