-- ==== Sys2Proof/Syntax.lean ====
section
/-! DEFINITION. The operations of the block, one constructor for each row of spec/opcode_table.json (00_scope.md R5,
30_encoding.md R81), and the words they are selected by. -/

namespace Sys2Proof

/-- The parser state `st` (10_state.md R21). The numeric codes are in Machine/Ports.lean. -/
inductive ParserState where
  /-- Waiting for the start marker, step 1 of the document. -/
  | hunt
  /-- Start marker accepted, waiting for the length byte, step 2. -/
  | len
  /-- Length accepted, collecting the `len_r - 1` body bytes, step 3. -/
  | body
  /-- Stop observed; nothing is consumed. -/
  | stopped
  deriving DecidableEq, Repr

/-- The class of a validated frame (42_classifier.md R120). -/
inductive FrameClass where
  | ack
  | event
  | getReply
  | ignored
  deriving DecidableEq, Repr

/-- The parsed triple (function, number, state) of 42_classifier.md R126 and 43_codec.md R132. -/
structure Triple where
  fn : Byte
  num : Byte
  state : Byte
  deriving DecidableEq, Repr

/-- What `compose` gives its caller (43_codec.md R130, R131). -/
inductive Composed where
  /-- The frame. -/
  | frame (f : List Byte)
  /-- `FrameTooLarge`, with the payload length that caused it (60_exceptions.md R140, code 7). -/
  | tooLarge (payloadLength : Nat)
  deriving DecidableEq, Repr

/-- The operations of the opcode table, in the table's order. An operand is what the row's encoding or invocation
leaves free. -/
inductive Instr where
  | huntSof
  | huntNoiseLf
  | huntNoiseCr
  | huntNoise (b : Byte)
  | huntTimeout
  | lenOk (l : Byte)
  | lenBad (l : Byte)
  | lenTimeout
  | bodyByte (b : Byte)
  | bodyLastOk (b : Byte)
  | bodyLastBad (b : Byte)
  | bodyTimeout
  | stoppedHold
  | reset
  | stop
  | cmdAck0
  | cmdAck1
  | cmdGetReply
  | cmdLog
  | cmdEvent
  | cmdOther (c : Byte)
  | accLoad
  | accAdd (b : Byte)
  | accCmp (b : Byte)
  | checksum (s : List Byte)
  | compose (c : Byte) (p : List Byte)
  | parseState (f : List Byte)
  | valid (f : List Byte)
  | classify (f : List Byte)
  | triple (f : List Byte)
  | handoff (f : List Byte)
  deriving DecidableEq, Repr

/-- What an operation is selected by, one form for each row format of 30_encoding.md R81: the control pair
(`rst` the left bit), the 9-bit symbol, the command byte. The rows of format `ACC` and `FUNC` have no bit pattern; their
word is the invocation the table gives them. -/
inductive OpWord where
  | ctrl (pair : BitVec 2)
  | sym (s : SymbolWord)
  | cmd (c : Byte)
  | accLoad
  | accAdd (b : Byte)
  | accCmp (b : Byte)
  | checksum (s : List Byte)
  | compose (c : Byte) (p : List Byte)
  | parseState (f : List Byte)
  | valid (f : List Byte)
  | classify (f : List Byte)
  | triple (f : List Byte)
  | handoff (f : List Byte)
  deriving DecidableEq, Repr

/-- What a caller outside the block can ask for: the pure functions (43_codec.md, "evaluated by their caller", R20) and
a look-up in the command map. The accumulator's micro-operations and the hand-off are parts of parser steps (40_checksum.md
section 2, R122), so no caller can ask for them. -/
inductive Call where
  | command (c : Byte)
  | checksum (s : List Byte)
  | compose (c : Byte) (p : List Byte)
  | parseState (f : List Byte)
  | valid (f : List Byte)
  | classify (f : List Byte)
  | triple (f : List Byte)
  deriving DecidableEq, Repr

/-- The part of the machine's state that the selection of a step reads (41_synchronizer.md R100 to R112): the parser
state, and in BODY the comparisons of `idx` with `len_r` and of `acc` with the byte. -/
structure View where
  st : ParserState
  idx : Index
  lenR : Index
  acc : Byte
  deriving DecidableEq, Repr

/-- Why the decoder refuses a word. -/
inductive DecodeError where
  /-- The control pair 00: no control event; the symbol rows apply (R81). -/
  | noControlEvent
  /-- A byte in BODY with `idx > len_r`: neither `idx < len_r` (R109) nor `idx = len_r` (R110, R111). 10_state.md R35
  excludes that state. -/
  | noRowForIndex
  deriving DecidableEq, Repr

end Sys2Proof
end

