-- ==== Sys2Proof/Machine/Flags.lean ====
section
/-! DEFINITION. The arithmetic of the block (00_scope.md R10, 40_checksum.md): `add8`, `sum8`, the three
micro-operations of an accumulator, and the one comparison result the rules use. The block has no flag register, no
condition code and no sticky bit (10_state.md R26): `chkOk` is combinational and is no state. -/

namespace Sys2Proof.Machine

/-- `add8`: the sum modulo 256, the carry out dropped (R10, R90). -/
def add8 (a b : Byte) : Byte := a + b

/-- `sum8`: the sum of all bytes of `s` modulo 256; 0 for the empty sequence (R10, R85). -/
def sum8 (s : List Byte) : Byte := BitVec.ofNat 8 ((s.map BitVec.toNat).sum % Config.sumMod)

/-- `ACC_LOAD` on an accumulator: its new value, the sum of the start marker alone (R87). -/
def accLoaded : Byte := Config.start

/-- `ACC_ADD` on an accumulator that holds `acc` (R88). -/
def accAdded (acc b : Byte) : Byte := add8 acc b

/-- `ACC_CMP`: `chk_ok`, the 8-bit equality of the accumulator with the received byte (R89). -/
def chkOk (acc b : Byte) : Bool := acc == b

/-- The length test of LEN: an unsigned comparison with the two constants (R75, R90). -/
def lengthLegal (l : Byte) : Bool := decide (Config.lenMin ≤ l.toNat) && decide (l.toNat ≤ Config.lenMax)

end Sys2Proof.Machine
end

