-- ==== Sys2Proof/Machine/Operands.lean ====
section
/-! DEFINITION. The operand forms: the two parts of a symbol (30_encoding.md R60), the low seven bits of a length byte
(41_synchronizer.md R106), and a byte of a sequence by index (00_scope.md R9). -/

namespace Sys2Proof.Machine

/-- Bit 8 of a symbol, `t`: 1 for Timeout (R60). -/
def symIsTimeout (s : SymbolWord) : Bool := s.getLsbD 8

/-- Bits 7:0 of a symbol, `d`: the byte, ignored when `t = 1` (R60). -/
def symData (s : SymbolWord) : Byte := s.setWidth 8

/-- The symbol `Byte(d)` (R60). -/
def symOfByte (d : Byte) : SymbolWord := d.setWidth 9

/-- A symbol `Timeout`, its ignored bits zero (R60). -/
def symTimeout : SymbolWord := 0x100

/-- `l[6:0]`, what a legal length byte leaves in `len_r` (R106). -/
def lengthIndex (l : Byte) : Index := l.setWidth 7

/-- `f[i]`: the byte of a sequence at an index (R9). Past the end it is the free value `Config.absentByte`. -/
def byteAt (f : List Byte) (i : Nat) : Byte := (f[i]?).getD (Config.absentByte f i)

/-- The pair of control inputs as the CTRL rows match it, `rst` the left bit (R81). -/
def ctrlPair (rst stop : Bool) : BitVec 2 := BitVec.ofBool rst ++ BitVec.ofBool stop

end Sys2Proof.Machine
end

