-- ==== Sys2Proof/Machine/Frame.lean ====
section
/-! DEFINITION. The pure frame functions: `checksum`, `compose`, `parseState`, `valid` (40_checksum.md R85, 43_codec.md),
`classify` and `triple` (42_classifier.md), and the composer of R134 as it sends a frame byte by byte. They read and
write no state of the parser. -/

namespace Sys2Proof.Machine

/-- `checksum(s)` (R85). -/
def checksumOf (s : List Byte) : Byte := sum8 s

/-- The bytes that `compose` sums: START, LEN, CMD and the payload, LEN being `n + 3` (R130). -/
def composeBody (c : Byte) (p : List Byte) : List Byte :=
  [Config.start, BitVec.ofNat 8 (p.length + 3), c] ++ p

/-- `compose(command, payload)`: the total length `n + 4` is computed in natural numbers and compared with 65 before
anything is built (R130, R131, R90 (e)). -/
def composeFrame (c : Byte) (p : List Byte) : Composed :=
  if p.length + 4 > Config.frameMax then .tooLarge p.length
  else .frame (composeBody c p ++ [sum8 (composeBody c p)])

/-- `parseState(f)`: exactly two tests, the length and the checksum; `none` is the result `invalid` (R132, R133). -/
def parseFrame (f : List Byte) : Option Triple :=
  if f.length < Config.parseMin then none
  else if sum8 (f.take (f.length - 1)) ≠ byteAt f (f.length - 1) then none
  else some ⟨byteAt f 3, byteAt f 4, byteAt f 5⟩

/-- `valid(f)` (R135). -/
def validFrame (f : List Byte) : Bool :=
  decide (Config.frameMin ≤ f.length) && decide (f.length ≤ Config.frameMax)
    && byteAt f 0 == Config.start
    && (byteAt f 1).toNat == f.length - 1
    && byteAt f (f.length - 1) == sum8 (f.take (f.length - 1))

/-- The command map, complete over all 256 values (R69, R120). -/
def classOfCommand (c : Byte) : FrameClass :=
  if c = 0x00 ∨ c = 0x01 then .ack
  else if c = 0x02 then .getReply
  else if c = 0x08 then .event
  else .ignored

/-- `classify(f)`: it reads the command byte and nothing else (R120). -/
def classifyFrame (f : List Byte) : FrameClass := classOfCommand (byteAt f 2)

/-- The queue of a class, by its bit in `q_ready` and `q_push`; Ignored has none (R121). -/
def queueOf : FrameClass → Option Nat
  | .ack => some 0
  | .event => some 1
  | .getReply => some 2
  | .ignored => none

/-- `triple(f)`: the bytes 3, 4, 5 of a frame of at least 7 bytes, for every class (R126). -/
def tripleOf (f : List Byte) : Option Triple :=
  if Config.parseMin ≤ f.length then some ⟨byteAt f 3, byteAt f 4, byteAt f 5⟩ else none

/-- The composer of R134 sends the bytes `bs` in order, adding each to its own accumulator as it is sent; the pair is
the accumulator and what has been sent. -/
def composerSend : List Byte → Byte × List Byte → Byte × List Byte
  | [], r => r
  | b :: bs, r => composerSend bs (accAdded r.1 b, r.2 ++ [b])

/-- A whole frame as the composer sends it: 0x02 with `ACC_LOAD`, then `n + 3`, the command and the payload with
`ACC_ADD`, then the accumulator's value (R134). The pair is the composer's accumulator afterwards and the bytes sent. -/
def composerRun (c : Byte) (p : List Byte) : Byte × List Byte :=
  let r := composerSend (BitVec.ofNat 8 (p.length + 3) :: c :: p) (accLoaded, [Config.start])
  (r.1, r.2 ++ [r.1])

end Sys2Proof.Machine
end

