-- ==== Sys2Proof/WellFormed.lean ====
section
/-! DEFINITION. Which terms of `Instr` are operations of the block: the `constraint` fields of spec/opcode_table.json on
an operand (`wellFormed`), and those on the machine's state (`selectedIn`). -/

namespace Sys2Proof

open Sys2Proof.Machine

/-- The row's constraint on its operand (30_encoding.md R74, R75, R81; 42_classifier.md R120, R122, R126: the operand of
CLASSIFY, TRIPLE and HANDOFF is a validated frame). -/
def Instr.wellFormed : Instr → Bool
  | .huntNoise b => b != Config.start && b != Config.lineFeed && b != Config.carriageReturn
  | .lenOk l => lengthLegal l
  | .lenBad l => !lengthLegal l
  | .cmdOther c => c != 0x00 && c != 0x01 && c != 0x02 && c != 0x03 && c != 0x08
  | .classify f => validFrame f
  | .triple f => validFrame f
  | .handoff f => validFrame f
  | .huntSof | .huntNoiseLf | .huntNoiseCr | .huntTimeout | .lenTimeout => true
  | .bodyByte _ | .bodyLastOk _ | .bodyLastBad _ | .bodyTimeout => true
  | .stoppedHold | .reset | .stop => true
  | .cmdAck0 | .cmdAck1 | .cmdGetReply | .cmdLog | .cmdEvent => true
  | .accLoad | .accAdd _ | .accCmp _ => true
  | .checksum _ | .compose _ _ | .parseState _ | .valid _ => true

/-- The row's constraint on the state in which it is selected (41_synchronizer.md R100 to R116): the parser state, and
in BODY the comparisons of `idx` with `len_r` and of `acc` with the byte. Rows of format CMD, ACC and FUNC name no parser
state. -/
def Instr.selectedIn (v : View) : Instr → Bool
  | .huntSof | .huntNoiseLf | .huntNoiseCr | .huntNoise _ | .huntTimeout => v.st == .hunt
  | .lenOk _ | .lenBad _ | .lenTimeout => v.st == .len
  | .bodyByte _ => v.st == .body && decide (v.idx < v.lenR)
  | .bodyLastOk b => v.st == .body && v.idx == v.lenR && chkOk v.acc b
  | .bodyLastBad b => v.st == .body && v.idx == v.lenR && !chkOk v.acc b
  | .bodyTimeout => v.st == .body
  | .stoppedHold => v.st == .stopped
  | .stop => v.st != .stopped
  | .reset => true
  | .cmdAck0 | .cmdAck1 | .cmdGetReply | .cmdLog | .cmdEvent | .cmdOther _ => true
  | .accLoad | .accAdd _ | .accCmp _ => true
  | .checksum _ | .compose _ _ | .parseState _ | .valid _ => true
  | .classify _ | .triple _ | .handoff _ => true

end Sys2Proof
end

