-- ==== Sys2Proof/Decode.lean ====
section
/-! DEFINITION. The decoder: which row of spec/opcode_table.json a word selects (30_encoding.md R81, 41_synchronizer.md
R100), and after it the encoder. Both are total. The selection of a symbol row depends on the parser's state, so the
decoder reads a `View` of it. -/

namespace Sys2Proof

open Sys2Proof.Machine

/-- Rows of format CTRL: `1x` is RESET, `01` is STOP (in STOPPED the row STOPPED_HOLD applies), and `00` is no control
event (R81, R100, R115). -/
def decodeCtrl (v : View) (pair : BitVec 2) : Except DecodeError Instr :=
  if pair.getLsbD 1 then .ok .reset
  else if pair.getLsbD 0 then (if v.st = .stopped then .ok .stoppedHold else .ok .stop)
  else .error .noControlEvent

/-- The rows of state HUNT (R102 to R105; byte classes R74). -/
def decodeHunt (s : SymbolWord) : Instr :=
  if symIsTimeout s then .huntTimeout
  else if symData s = Config.start then .huntSof
  else if symData s = Config.lineFeed then .huntNoiseLf
  else if symData s = Config.carriageReturn then .huntNoiseCr
  else .huntNoise (symData s)

/-- The rows of state LEN (R106 to R108). -/
def decodeLen (s : SymbolWord) : Instr :=
  if symIsTimeout s then .lenTimeout
  else if lengthLegal (symData s) then .lenOk (symData s)
  else .lenBad (symData s)

/-- The rows of state BODY (R109 to R112). The comparisons are unsigned (R90 (d)). With `idx > len_r`, which R35
excludes, no row applies to a byte. -/
def decodeBody (v : View) (s : SymbolWord) : Except DecodeError Instr :=
  if symIsTimeout s then .ok .bodyTimeout
  else if v.idx < v.lenR then .ok (.bodyByte (symData s))
  else if v.idx = v.lenR then
    (if chkOk v.acc (symData s) then .ok (.bodyLastOk (symData s)) else .ok (.bodyLastBad (symData s)))
  else .error .noRowForIndex

/-- Rows of format SYM, by the parser state (R100). In STOPPED every symbol selects STOPPED_HOLD (R115). -/
def decodeSym (v : View) (s : SymbolWord) : Except DecodeError Instr :=
  match v.st with
  | .hunt => .ok (decodeHunt s)
  | .len => .ok (decodeLen s)
  | .body => decodeBody v s
  | .stopped => .ok .stoppedHold

/-- Rows of format CMD: the exact-match rows first, CMD_OTHER takes what they leave (R81). -/
def decodeCommand (c : Byte) : Instr :=
  if c = 0x00 then .cmdAck0
  else if c = 0x01 then .cmdAck1
  else if c = 0x02 then .cmdGetReply
  else if c = 0x03 then .cmdLog
  else if c = 0x08 then .cmdEvent
  else .cmdOther c

/-- The operation that a word selects in a state whose view is `v`. -/
def decode (v : View) : OpWord → Except DecodeError Instr
  | .ctrl pair => decodeCtrl v pair
  | .sym s => decodeSym v s
  | .cmd c => .ok (decodeCommand c)
  | .accLoad => .ok .accLoad
  | .accAdd b => .ok (.accAdd b)
  | .accCmp b => .ok (.accCmp b)
  | .checksum s => .ok (.checksum s)
  | .compose c p => .ok (.compose c p)
  | .parseState f => .ok (.parseState f)
  | .valid f => .ok (.valid f)
  | .classify f => .ok (.classify f)
  | .triple f => .ok (.triple f)
  | .handoff f => .ok (.handoff f)

/-- The word a caller's request is. -/
def callWord : Call → OpWord
  | .command c => .cmd c
  | .checksum s => .checksum s
  | .compose c p => .compose c p
  | .parseState f => .parseState f
  | .valid f => .valid f
  | .classify f => .classify f
  | .triple f => .triple f

/-- The word of an operation, from the `match` and `encoding` columns of spec/opcode_table.json. Where a row leaves bits
ignored (the data bits of a Timeout, I4; the second control bit of RESET; every bit of STOPPED_HOLD) they are zero. -/
def encode : Instr → OpWord
  | .huntSof => .sym 0x002
  | .huntNoiseLf => .sym 0x00A
  | .huntNoiseCr => .sym 0x00D
  | .huntNoise b => .sym (symOfByte b)
  | .huntTimeout => .sym symTimeout
  | .lenOk l => .sym (symOfByte l)
  | .lenBad l => .sym (symOfByte l)
  | .lenTimeout => .sym symTimeout
  | .bodyByte b => .sym (symOfByte b)
  | .bodyLastOk b => .sym (symOfByte b)
  | .bodyLastBad b => .sym (symOfByte b)
  | .bodyTimeout => .sym symTimeout
  | .stoppedHold => .sym 0x000
  | .reset => .ctrl 0b10
  | .stop => .ctrl 0b01
  | .cmdAck0 => .cmd 0x00
  | .cmdAck1 => .cmd 0x01
  | .cmdGetReply => .cmd 0x02
  | .cmdLog => .cmd 0x03
  | .cmdEvent => .cmd 0x08
  | .cmdOther c => .cmd c
  | .accLoad => .accLoad
  | .accAdd b => .accAdd b
  | .accCmp b => .accCmp b
  | .checksum s => .checksum s
  | .compose c p => .compose c p
  | .parseState f => .parseState f
  | .valid f => .valid f
  | .classify f => .classify f
  | .triple f => .triple f
  | .handoff f => .handoff f

/-- The `match` and `mask` of a row of format SYM: a symbol `s` selects the row when `s AND mask = match` (R81). The
rows of the other formats have none. -/
def symRow : Instr → Option (SymbolWord × SymbolWord)
  | .huntSof => some (0x002, 0x1FF)
  | .huntNoiseLf => some (0x00A, 0x1FF)
  | .huntNoiseCr => some (0x00D, 0x1FF)
  | .huntNoise _ | .lenOk _ | .lenBad _ => some (0x000, 0x100)
  | .bodyByte _ | .bodyLastOk _ | .bodyLastBad _ => some (0x000, 0x100)
  | .huntTimeout | .lenTimeout | .bodyTimeout => some (0x100, 0x100)
  | .stoppedHold => some (0x000, 0x000)
  | .reset | .stop => none
  | .cmdAck0 | .cmdAck1 | .cmdGetReply | .cmdLog | .cmdEvent | .cmdOther _ => none
  | .accLoad | .accAdd _ | .accCmp _ => none
  | .checksum _ | .compose _ _ | .parseState _ | .valid _ => none
  | .classify _ | .triple _ | .handoff _ => none

/-- The data bits `d` that a row of format SYM reads as its operand; `none` for a row without one. -/
def symOperand : Instr → Option Byte
  | .huntNoise b | .bodyByte b | .bodyLastOk b | .bodyLastBad b => some b
  | .lenOk l | .lenBad l => some l
  | .huntSof | .huntNoiseLf | .huntNoiseCr | .huntTimeout | .lenTimeout | .bodyTimeout => none
  | .stoppedHold | .reset | .stop => none
  | .cmdAck0 | .cmdAck1 | .cmdGetReply | .cmdLog | .cmdEvent | .cmdOther _ => none
  | .accLoad | .accAdd _ | .accCmp _ => none
  | .checksum _ | .compose _ _ | .parseState _ | .valid _ => none
  | .classify _ | .triple _ | .handoff _ => none

/-- The symbol `s` matches the row of `i`, as R81 says it of the table: by `match` and `mask`, its operand being the
symbol's data bits, and by the row's constraints on the operand and on the state. It is written from the table and not
from the decoder. -/
def symMatches (v : View) (i : Instr) (s : SymbolWord) : Bool :=
  match symRow i with
  | none => false
  | some (m, k) =>
    (s &&& k == m) && (symOperand i == none || symOperand i == some (symData s)) && i.wellFormed && i.selectedIn v

/-- The view of the parser right after reset, in which a word of the opcode table stands as the first operation. -/
def resetView : View := { st := .hunt, idx := 0, lenR := 0, acc := 0 }

/-- The pair of control inputs that an 8-bit word of the opcode table stands for, if it is one: bits 1:0 are (rst, stop),
not both 0, and no bit above bit 2 is set (the reader's table numbers the priority of STOP as a bit 2). Every other 8-bit
word is a command byte. Log entry 9. -/
def tableControl (w : Nat) : Option (BitVec 2) :=
  if w % 4 ≠ 0 ∧ w < 8 then some (BitVec.ofNat 2 w) else none

/-- The operation that the decoder reads from a word numbered as spec/opcode_table.json numbers it, in the state right
after reset: up to 8 bits a control pair or a command byte, up to 16 bits the 9-bit symbol in bits 8:0 (the table's bit 9
is the reader's "symbol_width" and no bit of a symbol, R60). Log entry 9. -/
def decodeTableWord (nbits w : Nat) : Option Instr :=
  if nbits = 0 then none
  else if nbits ≤ 8 then
    match tableControl w with
    | some pair => (decode resetView (.ctrl pair)).toOption
    | none => (decode resetView (.cmd (BitVec.ofNat 8 w))).toOption
  else if nbits ≤ 16 then (decode resetView (.sym (BitVec.ofNat 9 w))).toOption
  else none

end Sys2Proof
end

