-- ==== Sys2Proof/Machine/State.lean ====
section
/-! DEFINITION. The state of the block as plain data (10_state.md R20 to R36), its outputs (00_scope.md R11), the inputs
the environment drives (10_state.md R27, R28, R32), the reasons a step can stop, and the state after reset (R34, R161). -/

namespace Sys2Proof.Machine

/-- What a `Discard` Output carries: its cause and the info recorded with it (60_exceptions.md R140). The cause codes
and the packing of the info on the ports are in Machine/Ports.lean. Code 7, FrameTooLarge, is no `Discard` of the parser:
it is the result `FnResult.frameTooLarge` (R150). -/
inductive Discard where
  /-- 0x0A or 0x0D read in HUNT (R103). -/
  | noiseQuiet (b : Byte)
  /-- Any other byte except 0x02 read in HUNT (R104). -/
  | noise (b : Byte)
  /-- A length byte below 3 or above 64 (R107). -/
  | badLen (l : Byte)
  /-- Cause PARTIAL: a Timeout in LEN or BODY, with the number of frame bytes accepted (R108, R112). -/
  | partialFrame (accepted : Index)
  /-- The last byte differs from the computed sum (R111). -/
  | badChk (computed received : Byte)
  /-- A validated frame lost to a full queue (R124). -/
  | qFull (c : FrameClass) (f : List Byte)
  /-- `Stop` in LEN or BODY (R114). -/
  | stopPartial (accepted : Index)
  deriving DecidableEq, Repr

/-- The Outputs of a step, the block's only observable behaviour (00_scope.md R11). -/
inductive Output where
  | discard (d : Discard)
  | classified (c : FrameClass) (f : List Byte) (t : Option Triple)
  | push (c : FrameClass) (f : List Byte)
  deriving DecidableEq, Repr

/-- What a function of the opcode table answers its caller with. -/
inductive FnResult where
  /-- CHECKSUM (R85). -/
  | sum (b : Byte)
  /-- ACC_CMP: `chk_ok` (R89). -/
  | chkOk (ok : Bool)
  /-- COMPOSE, a frame (R130). -/
  | frame (f : List Byte)
  /-- COMPOSE, `FrameTooLarge` with the payload length (R131, R140 code 7). -/
  | frameTooLarge (payloadLength : Nat)
  /-- PARSE_STATE, the triple (R132). -/
  | parsed (t : Triple)
  /-- PARSE_STATE, `invalid` (R132). -/
  | invalid
  /-- VALID (R135). -/
  | isValid (v : Bool)
  /-- CLASSIFY and the rows of the command map: the class, and the bit of its queue in `q_ready` and `q_push`, none for
  Ignored (R120, R121). -/
  | frameClass (c : FrameClass) (queue : Option Nat)
  /-- TRIPLE (R126). -/
  | triple (t : Option Triple)
  deriving DecidableEq, Repr

/-- What one step is given from outside: the control inputs as the environment drives them (10_state.md R27, R28), that
is `rst`, `stop`, `rx_valid` and the three `q_ready` bits (bit 0 Ack, bit 1 Event, bit 2 GetReply); and the request for a
pure function that a caller makes meanwhile, if one does (R20, log entry 7). -/
structure Drive where
  rst : Bool
  stop : Bool
  rxValid : Bool
  qReady : BitVec 3
  call : Option Call
  deriving DecidableEq, Repr

/-- Why the machine stops with a fault. No state that satisfies the invariants of 10_state.md R35 raises either. -/
inductive Fault where
  /-- An access to the frame buffer outside its 65 locations (R40, R48: "No rule can address outside 0..64"). Raised by
  the stores of BODY_BYTE and BODY_LAST_OK in states that R35 excludes. Safe. -/
  | bufferAddress (address : Nat)
  /-- The decoder refuses the word: a byte in BODY with `idx > len_r`, a state that R35 excludes. Raised by the step.
  Safe. -/
  | undecoded (e : DecodeError)
  deriving DecidableEq, Repr

/-- Why the model has no meaning to give. -/
inductive Refusal where
  /-- An instruction without a meaning. No arm of `exec` raises it: every row has its meaning. Safe. -/
  | notModelled (mnemonic : String)
  deriving DecidableEq, Repr

/-- The state of the machine. `st` to `buf` are the parser's (10_state.md R21 to R25), `txAcc` is the composer's
accumulator (R30, 43_codec.md R134). The rest is the model's own: `rx` and `inputs` are what the environment will still
offer (R32, R28), `out`, `res` and `tx` are what the step just taken has put out, each a one-step strobe (60_exceptions.md R151,
R157). -/
structure State where
  /-- `st`, parser state. -/
  st : ParserState
  /-- `idx`, frame byte index, 7 bits. -/
  idx : Index
  /-- `len_r`, the accepted length byte, 7 bits. -/
  lenR : Index
  /-- `acc`, the checksum accumulator, 8 bits. -/
  acc : Byte
  /-- `buf`, the frame buffer: the locations written so far, by rising address (Machine/Ops.lean `Memory.wf`). -/
  buf : List Host.Cell
  /-- The composer's own accumulator (R134). -/
  txAcc : Byte
  /-- The Link's undelivered symbols, the next one first (R31 (b), R32 (a)). -/
  rx : List SymbolWord
  /-- The inputs of the steps to come, the next one first; when they are used up every further step is given
  the usual control inputs (R79; Machine/Ops.lean `Drive.usual`). -/
  inputs : List Drive
  /-- The Outputs of the step just taken, in order (R11). -/
  out : List Output
  /-- The answer of a function evaluated in the step just taken. -/
  res : Option FnResult
  /-- The bytes the composer has sent in the step just taken, in the order sent (R134). -/
  tx : List Byte
  deriving DecidableEq, Repr

/-- The state right after reset (10_state.md R34, 70_reset_and_hazards.md R161): HUNT, `idx`, `len_r` and `acc` zero, no
location of `buf` with a value, no Output. `txAcc` is the model's choice (DESIGN CHOICE, log entry 2). Nothing is offered by
the environment (log entry 6). -/
def State.reset : State :=
  { st := .hunt, idx := 0, lenR := 0, acc := 0x00, buf := [], txAcc := 0x00,
    rx := [], inputs := [], out := [], res := none, tx := [] }

end Sys2Proof.Machine
end

