-- ==== Sys2Proof/Machine/Ops.lean ====
section
/-! DEFINITION. The named operations over the frame buffer and the registers, and what stands in the place of taking an
exception and returning from it: `raise` and `enterHunt` (00_scope.md R10, 41_synchronizer.md R101, 60_exceptions.md R146,
R147). -/

namespace Sys2Proof.Machine

/-- A step's outcome. -/
abbrev Result := Host.Outcome State Fault Refusal

/-- The frame buffer as a list of (address, byte), one canonical form: addresses strictly rising and within 0..64. A
location not listed has no value of its own (R161, log entry 3). -/
abbrev Memory := List Host.Cell

/-- Addresses strictly rising, each above `low`, and none outside the 65 locations of the buffer (R40). -/
def Memory.risingFrom : Nat → Memory → Bool
  | _, [] => true
  | low, (a, _) :: m => decide (low ≤ a) && decide (a < Config.frameMax) && Memory.risingFrom (a + 1) m

/-- The canonical form. -/
def Memory.wf (m : Memory) : Bool := Memory.risingFrom 0 m

/-- What the buffer holds at an address: `none` where nothing was ever written. -/
def Memory.read : Memory → Nat → Option Byte
  | [], _ => none
  | (a, b) :: m, x => if a = x then some b else Memory.read m x

/-- The buffer with one byte written; keeps the canonical form. -/
def Memory.write : Memory → Nat → Byte → Memory
  | [], x, v => [(x, v)]
  | (a, b) :: m, x, v =>
    if x < a then (x, v) :: (a, b) :: m
    else if x = a then (a, v) :: m
    else (a, b) :: Memory.write m x v

/-- `MemRead(addr, 1)` (R10): a location that nothing has written gives the free value `Config.staleByte`. -/
def Memory.byte (m : Memory) (a : Nat) : Byte := (Memory.read m a).getD (Config.staleByte a)

/-- `MemRead(0, n)`: `buf[0 .. n-1]` as a byte sequence in index order (R10, R41, R45). -/
def Memory.frame (m : Memory) (n : Nat) : List Byte := (List.range n).map (Memory.byte m)

/-- The control inputs "unless said otherwise": `rst = 0`, `stop = 0`, every `q_ready` bit 1 (30_encoding.md R79), and a
symbol offered whenever the Link has one; no caller asks for anything. -/
def Drive.usual : Drive := { rst := false, stop := false, rxValid := true, qReady := 0b111, call := none }

/-- What the selection of a step reads of the state. -/
def State.view (s : State) : View := { st := s.st, idx := s.idx, lenR := s.lenR, acc := s.acc }

/-- The control inputs of the step at hand. -/
def State.drive (s : State) : Drive :=
  match s.inputs with
  | d :: _ => d
  | [] => Drive.usual

/-- All strobes low: what a step puts out lasts for that step only (R151, R157, R161). -/
def State.low (s : State) : State := { s with out := [], res := none, tx := [] }

/-- The offered symbol is consumed and cannot be read again (R46, R54). -/
def State.consume (s : State) : State := { s with rx := s.rx.tail }

/-- `emit` (R10): append an Output to the step's list. -/
def State.emit (o : Output) (s : State) : State := { s with out := s.out ++ [o] }

/-- The answer of a function, for its caller. -/
def State.answer (r : FnResult) (s : State) : State := { s with res := some r }

/-- `EnterHunt` (R101), the resynchronisation that stands in the place of a return (R147, 00_scope.md R5): the next symbol
is read as a candidate start marker. `buf` is not written. -/
def State.enterHunt (s : State) : State := { s with st := .hunt, idx := 0, lenR := 0, acc := 0x00 }

/-- `raise <Cause>(info)` (R10), the discard that stands in the place of taking an exception (R146): one `Discard`
Output, then `EnterHunt`. It saves nothing and transfers to no handler. -/
def State.raise (d : Discard) (s : State) : State := (s.emit (.discard d)).enterHunt

/-- `MemWrite(addr, 1, v)` (R10) and what follows it. The buffer has the addresses 0 to 64 (R40); another one faults. -/
def storeByte (a : Nat) (b : Byte) (s : State) (k : State → Result) : Result :=
  if a < Config.frameMax then k { s with buf := Memory.write s.buf a b } else .fault (.bufferAddress a)

/-- The Outputs of the hand-off of a validated frame `f`, with the `q_ready` bits as sampled in the step
(42_classifier.md R122 to R125). -/
def handoffOutputs (qReady : BitVec 3) (f : List Byte) : List Output :=
  let c := classifyFrame f
  Output.classified c f (tripleOf f) ::
    (match queueOf c with
     | none => []
     | some q => if qReady.getLsbD q then [Output.push c f] else [Output.discard (.qFull c f)])

/-- The hand-off on the state: its Outputs are appended to the step's list (R122). -/
def State.handOff (f : List Byte) (s : State) : State :=
  { s with out := s.out ++ handoffOutputs s.drive.qReady f }

/-- The parser's next state with what a caller's operation, run beside it in the same step, answers and sends: the
functions and the composer share no state with the parser (R20, R30, R134). -/
def State.answeredBy (t u : State) : State := { t with txAcc := u.txAcc, res := u.res, tx := u.tx }

/-- The outcomes of the parser's and of the caller's operation as the outcome of one step. -/
def Result.beside : Result → Result → Result
  | .next t, .next u => .next (t.answeredBy u)
  | .next _, .fault r => .fault r
  | .next _, .refused r => .refused r
  | .fault r, _ => .fault r
  | .refused r, _ => .refused r

/-- What a step does to an outcome after the operation: it goes on with the next state. -/
def Result.mapNext (g : State → State) : Result → Result
  | .next s => .next (g s)
  | .fault r => .fault r
  | .refused r => .refused r

end Sys2Proof.Machine
end

