-- ==== Sys2Proof/Machine/Accumulator.lean ====
section
/-! DEFINITION. The micro-operations of the parser's accumulator by themselves (40_checksum.md R87 to R89). The parser's
steps invoke them (R102, R106, R109 to R111) through the shared functions of Machine/Flags.lean. -/

namespace Sys2Proof.Machine

/-- ACC_LOAD (R87). -/
def execAccLoad (s : State) : Result := .next { s.low with acc := accLoaded }

/-- ACC_ADD (R88). -/
def execAccAdd (b : Byte) (s : State) : Result := .next { s.low with acc := accAdded s.acc b }

/-- ACC_CMP (R89): `chk_ok`; `acc` is not changed. -/
def execAccCmp (b : Byte) (s : State) : Result := .next (s.low.answer (.chkOk (chkOk s.acc b)))

end Sys2Proof.Machine
end

