-- ==== Sys2Proof/Machine/Body.lean ====
section
/-! DEFINITION. The rows of state BODY, steps 3 and 4 of the document (41_synchronizer.md R109 to R112). -/

namespace Sys2Proof.Machine

/-- BODY_BYTE (R109), with `ACC_ADD` (R88). -/
def execBodyByte (b : Byte) (s : State) : Result :=
  storeByte s.idx.toNat b s.low.consume fun s' =>
    .next { s' with acc := accAdded s.acc b, idx := s.idx + 1 }

/-- BODY_LAST_OK (R110): the last byte is stored, the whole frame is handed off, then `EnterHunt`. The frame is
`buf[0 .. len_r - 1] ++ [b]` with the buffer as it was before the step (R10). -/
def execBodyLastOk (b : Byte) (s : State) : Result :=
  storeByte s.lenR.toNat b s.low.consume fun s' =>
    .next (s'.handOff (Memory.frame s.buf s.lenR.toNat ++ [b])).enterHunt

/-- BODY_LAST_BAD (R111): the info is the computed sum and the received byte. -/
def execBodyLastBad (b : Byte) (s : State) : Result := .next (s.low.consume.raise (.badChk s.acc b))

/-- BODY_TIMEOUT (R112): the info is the number of frame bytes accepted so far. -/
def execBodyTimeout (s : State) : Result := .next (s.low.consume.raise (.partialFrame s.idx))

end Sys2Proof.Machine
end

