-- ==== Sys2Proof/Machine/Codec.lean ====
section
/-! DEFINITION. The functions evaluated by a caller (40_checksum.md R85, 43_codec.md, 42_classifier.md R120, R126) and
the hand-off by itself (R122). None of the functions touches the parser. -/

namespace Sys2Proof.Machine

/-- CHECKSUM (R85). -/
def execChecksum (bs : List Byte) (s : State) : Result := .next (s.low.answer (.sum (checksumOf bs)))

/-- COMPOSE (R130, R131) as a function, and as the composer of R134 sends it with an accumulator of its own. On
`FrameTooLarge` no frame is produced and nothing is sent. -/
def execCompose (c : Byte) (p : List Byte) (s : State) : Result :=
  match composeFrame c p with
  | .tooLarge n => .next (s.low.answer (.frameTooLarge n))
  | .frame f => .next { s.low.answer (.frame f) with txAcc := (composerRun c p).1, tx := (composerRun c p).2 }

/-- PARSE_STATE (R132). -/
def execParseState (f : List Byte) (s : State) : Result :=
  match parseFrame f with
  | none => .next (s.low.answer .invalid)
  | some t => .next (s.low.answer (.parsed t))

/-- VALID (R135). -/
def execValid (f : List Byte) (s : State) : Result := .next (s.low.answer (.isValid (validFrame f)))

/-- CLASSIFY (R120). -/
def execClassify (f : List Byte) (s : State) : Result :=
  .next (s.low.answer (.frameClass (classifyFrame f) (queueOf (classifyFrame f))))

/-- TRIPLE (R126). -/
def execTriple (f : List Byte) (s : State) : Result := .next (s.low.answer (.triple (tripleOf f)))

/-- HANDOFF (R122). -/
def execHandoff (f : List Byte) (s : State) : Result := .next (s.low.handOff f)

end Sys2Proof.Machine
end

