-- ==== Sys2Proof/Machine/Command.lean ====
section
/-! DEFINITION. The rows of the command map (42_classifier.md R120, R121; 30_encoding.md R69): each gives the class of a
command byte and the queue of that class. The parser evaluates them inside the hand-off; looked up by themselves they
change no state of the parser. -/

namespace Sys2Proof.Machine

/-- The class and its queue, as the answer of a row. -/
def classAnswer (c : FrameClass) (s : State) : Result := .next (s.low.answer (.frameClass c (queueOf c)))

/-- CMD_ACK0, command byte 0x00. -/
def execCmdAck0 (s : State) : Result := classAnswer .ack s

/-- CMD_ACK1, command byte 0x01: Ack when received (90_conflicts.md C3). -/
def execCmdAck1 (s : State) : Result := classAnswer .ack s

/-- CMD_GETREPLY, command byte 0x02: GetReply when received (90_conflicts.md C3). -/
def execCmdGetReply (s : State) : Result := classAnswer .getReply s

/-- CMD_LOG, command byte 0x03: not routed on receive. -/
def execCmdLog (s : State) : Result := classAnswer .ignored s

/-- CMD_EVENT, command byte 0x08. -/
def execCmdEvent (s : State) : Result := classAnswer .event s

/-- CMD_OTHER, every other command byte: validated, tagged Ignored, pushed nowhere, never a fault (R77). -/
def execCmdOther (_c : Byte) (s : State) : Result := classAnswer .ignored s

end Sys2Proof.Machine
end

