-- ==== Sys2Proof/Machine/Control.lean ====
section
/-! DEFINITION. The control events and the hold in STOPPED (41_synchronizer.md R114 to R116). None consumes a symbol. -/

namespace Sys2Proof.Machine

/-- STOPPED_HOLD (R115): nothing changes, no Output, no symbol consumed. -/
def execStoppedHold (s : State) : Result := .next s.low

/-- RESET (R116): the registers of the parser to their reset values. `buf` is not written, no Output, and a frame in
progress is dropped without a `Discard`. -/
def execReset (s : State) : Result := .next s.low.enterHunt

/-- The Outputs of `Stop`: STOP_PARTIAL when a frame was in progress (R114). -/
def stopOutputs (s : State) : List Output :=
  if s.st = .len ∨ s.st = .body then [.discard (.stopPartial s.idx)] else []

/-- STOP (R114). -/
def execStop (s : State) : Result :=
  .next { s.low with out := stopOutputs s, st := .stopped, idx := 0, lenR := 0, acc := 0x00 }

end Sys2Proof.Machine
end

