-- ==== Sys2Proof/Machine/Hunt.lean ====
section
/-! DEFINITION. The rows of state HUNT, step 1 of the document (41_synchronizer.md R102 to R105). -/

namespace Sys2Proof.Machine

/-- HUNT_SOF (R102), with `ACC_LOAD` (R87). -/
def execHuntSof (s : State) : Result :=
  storeByte 0 Config.start s.low.consume fun s' =>
    .next { s' with acc := accLoaded, idx := 1, st := .len }

/-- HUNT_NOISE_LF (R103): the byte is 0x0A. -/
def execHuntNoiseLf (s : State) : Result :=
  .next (s.low.consume.emit (.discard (.noiseQuiet Config.lineFeed)))

/-- HUNT_NOISE_CR (R103): the byte is 0x0D. -/
def execHuntNoiseCr (s : State) : Result :=
  .next (s.low.consume.emit (.discard (.noiseQuiet Config.carriageReturn)))

/-- HUNT_NOISE (R104). -/
def execHuntNoise (b : Byte) (s : State) : Result :=
  .next (s.low.consume.emit (.discard (.noise b)))

/-- HUNT_TIMEOUT (R105): nothing but the symbol's consumption. -/
def execHuntTimeout (s : State) : Result := .next s.low.consume

end Sys2Proof.Machine
end

