-- ==== Sys2Proof/Machine/Length.lean ====
section
/-! DEFINITION. The rows of state LEN, step 2 of the document (41_synchronizer.md R106 to R108). -/

namespace Sys2Proof.Machine

/-- LEN_OK (R106), with `ACC_ADD` (R88). -/
def execLenOk (l : Byte) (s : State) : Result :=
  storeByte 1 l s.low.consume fun s' =>
    .next { s' with lenR := lengthIndex l, acc := accAdded s.acc l, idx := 2, st := .body }

/-- LEN_BAD (R107). -/
def execLenBad (l : Byte) (s : State) : Result := .next (s.low.consume.raise (.badLen l))

/-- LEN_TIMEOUT (R108): the info is 1, the marker alone. -/
def execLenTimeout (s : State) : Result := .next (s.low.consume.raise (.partialFrame 1))

end Sys2Proof.Machine
end

