-- ==== Sys2Proof/Machine/Dispatch.lean ====
section
/-! DEFINITION. The meaning of every operation, one arm per row of spec/opcode_table.json. -/

namespace Sys2Proof.Machine

def exec (i : Instr) (s : State) : Host.Outcome State Fault Refusal :=
  match i with
  | .huntSof => Sys2Proof.Machine.execHuntSof s
  | .huntNoiseLf => Sys2Proof.Machine.execHuntNoiseLf s
  | .huntNoiseCr => Sys2Proof.Machine.execHuntNoiseCr s
  | .huntNoise b => Sys2Proof.Machine.execHuntNoise b s
  | .huntTimeout => Sys2Proof.Machine.execHuntTimeout s
  | .lenOk l => Sys2Proof.Machine.execLenOk l s
  | .lenBad l => Sys2Proof.Machine.execLenBad l s
  | .lenTimeout => Sys2Proof.Machine.execLenTimeout s
  | .bodyByte b => Sys2Proof.Machine.execBodyByte b s
  | .bodyLastOk b => Sys2Proof.Machine.execBodyLastOk b s
  | .bodyLastBad b => Sys2Proof.Machine.execBodyLastBad b s
  | .bodyTimeout => Sys2Proof.Machine.execBodyTimeout s
  | .stoppedHold => Sys2Proof.Machine.execStoppedHold s
  | .reset => Sys2Proof.Machine.execReset s
  | .stop => Sys2Proof.Machine.execStop s
  | .cmdAck0 => Sys2Proof.Machine.execCmdAck0 s
  | .cmdAck1 => Sys2Proof.Machine.execCmdAck1 s
  | .cmdGetReply => Sys2Proof.Machine.execCmdGetReply s
  | .cmdLog => Sys2Proof.Machine.execCmdLog s
  | .cmdEvent => Sys2Proof.Machine.execCmdEvent s
  | .cmdOther c => Sys2Proof.Machine.execCmdOther c s
  | .accLoad => Sys2Proof.Machine.execAccLoad s
  | .accAdd b => Sys2Proof.Machine.execAccAdd b s
  | .accCmp b => Sys2Proof.Machine.execAccCmp b s
  | .checksum bs => Sys2Proof.Machine.execChecksum bs s
  | .compose c p => Sys2Proof.Machine.execCompose c p s
  | .parseState f => Sys2Proof.Machine.execParseState f s
  | .valid f => Sys2Proof.Machine.execValid f s
  | .classify f => Sys2Proof.Machine.execClassify f s
  | .triple f => Sys2Proof.Machine.execTriple f s
  | .handoff f => Sys2Proof.Machine.execHandoff f s

end Sys2Proof.Machine
end

