-- ==== Sys2Proof/Machine/Fetch.lean ====
section
/-! DEFINITION. The selection of a step's Event (41_synchronizer.md R100) from what the environment offers, and the
passing of the step's input. -/

namespace Sys2Proof.Machine

/-- The word of the step's Event, `none` when there is no Event and the parser does not change (R100): `rst` beats `stop`
and `stop` beats a symbol. A caller's request has no part in it (R20). In STOPPED the level `stop` and an offered symbol
select STOPPED_HOLD (R115), which changes nothing, so they agree with the clocked reading's "none" (log entry 13). -/
def fetch (s : State) : Option OpWord :=
  if s.drive.rst || s.drive.stop then some (.ctrl (ctrlPair s.drive.rst s.drive.stop))
  else if s.drive.rxValid then s.rx.head?.map OpWord.sym
  else none

/-- The step's input has passed. -/
def State.advance (s : State) : State := { s with inputs := s.inputs.tail }

/-- `rx_ready` (R27, 70_reset_and_hazards.md R172): 1 in HUNT, LEN and BODY unless the step's Event is `Rst` or `Stop`,
whatever callers ask for meanwhile; 0 in STOPPED (R115). -/
def rxReady (s : State) : Bool := s.st != .stopped && !s.drive.rst && !s.drive.stop

/-- The inputs with the usual control inputs and one symbol ahead of whatever is offered, or with one control pair, or one
command look-up in a step without an Event, ahead of it: where the next step fetches a word of the opcode table (log entry 9). -/
def State.placeWord (s : State) (nbits w : Nat) : State :=
  if nbits = 0 then s
  else if nbits ≤ 8 then
    match tableControl w with
    | some pair =>
      { s with inputs := { Drive.usual with rst := pair.getLsbD 1, stop := pair.getLsbD 0 } :: s.inputs }
    | none =>
      { s with inputs := { Drive.usual with rxValid := false, call := some (.command (BitVec.ofNat 8 w)) } :: s.inputs }
  else if nbits ≤ 16 then
    { s with rx := BitVec.ofNat 9 w :: s.rx, inputs := Drive.usual :: s.inputs }
  else s

end Sys2Proof.Machine
end

