-- ==== Sys2Proof/Machine/Agents.lean ====
section
/-! DEFINITION. The two parts of a step: what the parser does with the step's Event (41_synchronizer.md R100), and what is
answered meanwhile to a caller (10_state.md R20, 43_codec.md R134). Both run on the state as it is. -/

namespace Sys2Proof.Machine

/-- The parser's part: the operation its Event decodes to. Without an Event nothing changes but that the strobes are low
(R8, R100). -/
def parserPart (s : State) : Result :=
  match fetch s with
  | none => .next s.low
  | some w =>
    match decode s.view w with
    | .error e => .fault (.undecoded e)
    | .ok i => exec i s

/-- The caller's part: the operation that is asked for, if one is. -/
def callerPart (s : State) : Result :=
  match s.drive.call with
  | none => .next s.low
  | some c =>
    match decode s.view (callWord c) with
    | .error e => .fault (.undecoded e)
    | .ok i => exec i s

end Sys2Proof.Machine
end

