-- ==== Sys2Proof/Machine/Step.lean ====
section
/-! DEFINITION. One step (00_scope.md R8, 41_synchronizer.md R100): the parser runs the operation that its Event decodes
to, a caller is answered beside it, and the step's input passes. -/

namespace Sys2Proof.Machine

/-- One step. -/
def step (s : State) : Host.Outcome State Fault Refusal :=
  Result.mapNext State.advance (Result.beside (parserPart s) (callerPart s))

/-- A word of the opcode table stored where the next step fetches it. -/
def State.withFetchWord (s : State) (nbits w : Nat) : State := s.placeWord nbits w

end Sys2Proof.Machine
end

