-- ==== Sys2Proof/Machine/Ports.lean ====
section
/-! DEFINITION. The numeric codes of 30_encoding.md R78 and the output ports of 10_state.md R27 as a function of a step's
Outputs. A port whose value the spec leaves unspecified in a step (I3) has no value here. -/

namespace Sys2Proof.Machine

/-- The code of a parser state (R21, R78). -/
def stateCode : ParserState → BitVec 2
  | .hunt => 0
  | .len => 1
  | .body => 2
  | .stopped => 3

/-- The code of a class on `frm_class` (R121, R78). -/
def classCode : FrameClass → BitVec 2
  | .ack => 0
  | .event => 1
  | .getReply => 2
  | .ignored => 3

/-- The code of a discard cause on `diag_cause` (60_exceptions.md R140, R78). -/
def causeCode : Discard → BitVec 3
  | .noiseQuiet _ => 0
  | .noise _ => 1
  | .badLen _ => 2
  | .partialFrame _ => 3
  | .badChk _ _ => 4
  | .qFull _ _ => 5
  | .stopPartial _ => 6

/-- The code of a function's failure result: 7 is FrameTooLarge, raised only by `compose` (R140, R150). -/
def failureCode : FnResult → Option (BitVec 3)
  | .frameTooLarge _ => some 7
  | _ => none

/-- The info of a discard on `diag_info`, 16 bits, widened with zeros (R140, 90_conflicts.md C10). BADCHK has 8 bits each
for the computed sum and the received byte; which half holds which is the model's choice (DESIGN CHOICE, log entry 8). -/
def causeInfo : Discard → BitVec 16
  | .noiseQuiet b => b.setWidth 16
  | .noise b => b.setWidth 16
  | .badLen l => l.setWidth 16
  | .partialFrame n => n.setWidth 16
  | .badChk computed received => computed ++ received
  | .qFull c _ => (classCode c).setWidth 16
  | .stopPartial n => n.setWidth 16

/-- What stands on `frm_class`, `frm_len`, `frm_data` and the triple ports while `frm_valid = 1` (R27). `data` has the
`frm_len` specified bytes; `triple = none` is `frm_triple_valid = 0` (R126). -/
structure FramePort where
  cls : BitVec 2
  len : BitVec 7
  data : List Byte
  triple : Option Triple
  deriving DecidableEq, Repr

/-- What stands on `diag_cause` and `diag_info` while `diag_valid = 1` (R27). -/
structure DiagPort where
  cause : BitVec 3
  info : BitVec 16
  deriving DecidableEq, Repr

/-- `frm_valid` and its companions: the `Classified` Output of the step, if there is one (R27). -/
def framePort : List Output → Option FramePort
  | [] => none
  | .classified c f t :: _ => some { cls := classCode c, len := BitVec.ofNat 7 f.length, data := f, triple := t }
  | .discard _ :: os => framePort os
  | .push _ _ :: os => framePort os

/-- `diag_valid` and its companions: the `Discard` Output of the step, if there is one (R27, R148). -/
def diagPort : List Output → Option DiagPort
  | [] => none
  | .discard d :: _ => some { cause := causeCode d, info := causeInfo d }
  | .classified _ _ _ :: os => diagPort os
  | .push _ _ :: os => diagPort os

/-- The bit of a class on `q_push` (R121); Ignored has none. -/
def pushBit (c : FrameClass) : BitVec 3 :=
  match queueOf c with
  | none => 0
  | some q => BitVec.ofNat 3 (2 ^ q)

/-- `q_push`: one-hot for the `Push` of the step, or zero (R27, R123). -/
def pushPort : List Output → BitVec 3
  | [] => 0
  | .push c _ :: _ => pushBit c
  | .classified _ _ _ :: os => pushPort os
  | .discard _ :: os => pushPort os

end Sys2Proof.Machine
end

