-- ==== Sys2Proof/Machine/Scan.lean ====
section
/-! DEFINITION. `scan`, the Outputs of a whole symbol stream (41_synchronizer.md R117), written from the spec's own
equations and not from the step. Each symbol comes with the `q_ready` bits as sampled in the step that consumes it. -/

namespace Sys2Proof.Machine

/-- Which of the three equations groups of R117 reads the rest of the stream: `scan`, `after_start`, or `body(l, g, _)`
with `|g| <= l`. -/
inductive ScanMode where
  | hunting
  | afterStart
  | body (l : Byte) (g : List Byte)
  deriving DecidableEq, Repr

/-- `body(l, g, r)` with `|g| = l + 1`: the whole frame `g` is in (R117). -/
def scanFinish (q : BitVec 3) (l : Byte) (g : List Byte) : List Output :=
  if sum8 (g.take l.toNat) = byteAt g l.toNat then handoffOutputs q g
  else [.discard (.badChk (sum8 (g.take l.toNat)) (byteAt g l.toNat))]

/-- The Outputs of the rest of a stream (R117). -/
def scanFrom : ScanMode → List (BitVec 3 × SymbolWord) → List Output
  | _, [] => []
  | .hunting, (_, s) :: r =>
    if symIsTimeout s then scanFrom .hunting r
    else if symData s = Config.start then scanFrom .afterStart r
    else if symData s = Config.lineFeed ∨ symData s = Config.carriageReturn then
      .discard (.noiseQuiet (symData s)) :: scanFrom .hunting r
    else .discard (.noise (symData s)) :: scanFrom .hunting r
  | .afterStart, (_, s) :: r =>
    if symIsTimeout s then .discard (.partialFrame 1) :: scanFrom .hunting r
    else if lengthLegal (symData s) then scanFrom (.body (symData s) [Config.start, symData s]) r
    else .discard (.badLen (symData s)) :: scanFrom .hunting r
  | .body l g, (q, s) :: r =>
    if symIsTimeout s then .discard (.partialFrame (BitVec.ofNat 7 g.length)) :: scanFrom .hunting r
    else if g.length = l.toNat then scanFinish q l (g ++ [symData s]) ++ scanFrom .hunting r
    else scanFrom (.body l (g ++ [symData s])) r

/-- `scan` of a stream read from HUNT (R117). -/
def scan (stream : List (BitVec 3 × SymbolWord)) : List Output := scanFrom .hunting stream

end Sys2Proof.Machine
end

