-- ==== Sys2Proof/Safety.lean ====
section
/-! DEFINITION. What claims about the machine are stated with: the legal states (10_state.md R35), runs of several steps
and what they put out, and streams as the environment offers them. -/

namespace Sys2Proof.Machine

/-- A legal state: the invariants of 10_state.md R35 for each parser state, and the frame buffer in its canonical form.
In LEN and BODY every byte of the frame accepted so far has been written (R25). -/
abbrev State.Legal (s : State) : Prop :=
  Memory.wf s.buf = true ∧
  (s.st = .hunt → s.idx = 0 ∧ s.lenR = 0 ∧ s.acc = 0) ∧
  (s.st = .len → s.idx = 1 ∧ s.lenR = 0 ∧ s.acc = 0x02 ∧ Memory.read s.buf 0 = some 0x02) ∧
  (s.st = .body →
    3 ≤ s.lenR.toNat ∧ s.lenR.toNat ≤ 64 ∧ 2 ≤ s.idx.toNat ∧ s.idx.toNat ≤ s.lenR.toNat ∧
    Memory.read s.buf 0 = some 0x02 ∧ Memory.read s.buf 1 = some (s.lenR.setWidth 8) ∧
    (∀ a, a < s.idx.toNat → (Memory.read s.buf a).isSome) ∧
    s.acc = sum8 (Memory.frame s.buf s.idx.toNat)) ∧
  (s.st = .stopped → s.idx = 0 ∧ s.lenR = 0 ∧ s.acc = 0)

/-- `k` steps, stopping at the first fault or refusal. -/
def runSteps : Nat → State → Result
  | 0, s => .next s
  | k + 1, s =>
    match step s with
    | .next t => runSteps k t
    | .fault r => .fault r
    | .refused r => .refused r

/-- The Outputs of `k` steps, in order. -/
def runOutputs : Nat → State → List Output
  | 0, _ => []
  | k + 1, s =>
    match step s with
    | .next t => t.out ++ runOutputs k t
    | _ => []

/-- A safe run: no number of steps ends in a fault or a refusal (41_synchronizer.md R118). -/
def State.RunsSafely (s : State) : Prop := ∀ k, ∃ t, runSteps k s = .next t

/-- The control inputs under which a symbol is taken with the given `q_ready` bits: `rst = 0`, `stop = 0`. -/
def symbolDrive (q : BitVec 3) : Drive := { Drive.usual with qReady := q }

/-- The state with a stream offered: the symbols by the Link, each with the `q_ready` bits of the step that takes it. -/
def State.offer (s : State) (stream : List (BitVec 3 × SymbolWord)) : State :=
  { s with rx := stream.map Prod.snd, inputs := stream.map fun x => symbolDrive x.1 }

/-- The bytes of a sequence as a stream without Timeouts, every step sampling the same `q_ready` bits. -/
def byteStream (q : BitVec 3) (f : List Byte) : List (BitVec 3 × SymbolWord) := f.map fun b => (q, symOfByte b)

/-- Outputs that report a `Classified` frame. -/
def Output.isClassified : Output → Bool
  | .classified _ _ _ => true
  | .discard _ => false
  | .push _ _ => false

/-- Outputs that hand a frame to a queue. -/
def Output.isPush : Output → Bool
  | .push _ _ => true
  | .discard _ => false
  | .classified _ _ _ => false

/-- Outputs that report a discard. -/
def Output.isDiscard : Output → Bool
  | .discard _ => true
  | .classified _ _ _ => false
  | .push _ _ => false

/-- Outputs that put one discard on the diagnostic port, with this cause and info, and nothing on the frame and push ports
(10_state.md R27). -/
abbrev DiagnosticOnly (o : List Output) (cause : BitVec 3) (info : BitVec 16) : Prop :=
  diagPort o = some { cause := cause, info := info } ∧ framePort o = none ∧ pushPort o = 0

end Sys2Proof.Machine
end

