-- ==== Sys2Proof/Certificates/Slice0/Obligations.lean ====
section
/-! DEFINITION. The statements for the provers, each from the numbered rules of spec/ that its docstring names. Where a
statement gives a next state as a record update, every field the update does not name is unchanged. -/

open Sys2Proof Sys2Proof.Machine

/-! ## The rows of HUNT -/

/-- R102, HUNT_SOF. In HUNT the symbol 0x02 always selects the row; it stores the marker at 0, loads `acc` with 0x02 and
goes to LEN with `idx = 1`, with no Output. Every other location of the buffer is unchanged. -/
def Obligations.HuntSofStartsAFrame : Prop :=
  (∀ v : View, v.st = .hunt → decode v (.sym 0x002) = .ok .huntSof) ∧
  ∀ s : State, ∃ t : State,
    exec .huntSof s = .next t ∧
    t = { s with
      st := .len, idx := 1, acc := 0x02, buf := Memory.write s.buf 0 0x02,
      rx := s.rx.tail, out := [], res := none, tx := [] } ∧
    Memory.read t.buf 0 = some 0x02 ∧
    ∀ a, a ≠ 0 → Memory.read t.buf a = Memory.read s.buf a

/-- R103 (the spec's decision D8), HUNT_NOISE_LF and HUNT_NOISE_CR: one quiet discard each, no register changes. The two
values are quiet only in HUNT: in LEN they are the legal lengths 10 and 13, in BODY they are data. -/
def Obligations.HuntQuietNoiseIsDiscarded : Prop :=
  (∀ s : State,
    exec .huntNoiseLf s =
      .next { s with rx := s.rx.tail, out := [.discard (.noiseQuiet 0x0A)], res := none, tx := [] } ∧
    exec .huntNoiseCr s =
      .next { s with rx := s.rx.tail, out := [.discard (.noiseQuiet 0x0D)], res := none, tx := [] }) ∧
  (∀ v : View, v.st = .hunt →
    decode v (.sym 0x00A) = .ok .huntNoiseLf ∧ decode v (.sym 0x00D) = .ok .huntNoiseCr) ∧
  (∀ v : View, v.st = .len →
    decode v (.sym 0x00A) = .ok (.lenOk 10) ∧ decode v (.sym 0x00D) = .ok (.lenOk 13)) ∧
  (∀ v : View, v.st = .body → v.idx < v.lenR →
    decode v (.sym 0x00A) = .ok (.bodyByte 0x0A) ∧ decode v (.sym 0x00D) = .ok (.bodyByte 0x0D))

/-- R104, HUNT_NOISE: every byte but 0x02, 0x0A and 0x0D, read in HUNT, is discarded with cause NOISE; no register
changes. -/
def Obligations.HuntNoiseIsDiscarded : Prop :=
  (∀ (v : View) (b : Byte), v.st = .hunt → b ≠ 0x02 → b ≠ 0x0A → b ≠ 0x0D →
    decode v (.sym (symOfByte b)) = .ok (.huntNoise b)) ∧
  ∀ (b : Byte) (s : State),
    exec (.huntNoise b) s =
      .next { s with rx := s.rx.tail, out := [.discard (.noise b)], res := none, tx := [] }

/-- R105 (the spec's decision D4), HUNT_TIMEOUT: whatever the ignored data bits are, a Timeout in HUNT changes nothing
and has no Output. -/
def Obligations.HuntTimeoutDoesNothing : Prop :=
  (∀ (v : View) (d : Byte), v.st = .hunt → decode v (.sym (0x100 ||| symOfByte d)) = .ok .huntTimeout) ∧
  ∀ s : State,
    exec .huntTimeout s = .next { s with rx := s.rx.tail, out := [], res := none, tx := [] }

/-! ## The rows of LEN -/

/-- R106, LEN_OK: a byte of 3 to 64 read in LEN is stored at 1, becomes `len_r`, is added to `acc`, and the parser is in
BODY with `idx = 2`. As `acc` was 0x02 the sum does not wrap. -/
def Obligations.LenOkAcceptsTheLength : Prop :=
  (∀ (v : View) (l : Byte), v.st = .len → 3 ≤ l.toNat → l.toNat ≤ 64 →
    decode v (.sym (symOfByte l)) = .ok (.lenOk l)) ∧
  ∀ (l : Byte) (s : State), ∃ t : State,
    exec (.lenOk l) s = .next t ∧
    t = { s with
      st := .body, idx := 2, lenR := l.setWidth 7, acc := s.acc + l, buf := Memory.write s.buf 1 l,
      rx := s.rx.tail, out := [], res := none, tx := [] } ∧
    (l.toNat ≤ 64 → t.lenR.toNat = l.toNat) ∧
    (s.acc = 0x02 → l.toNat ≤ 64 → t.acc.toNat = l.toNat + 2) ∧
    Memory.read t.buf 1 = some l ∧
    ∀ a, a ≠ 1 → Memory.read t.buf a = Memory.read s.buf a

/-- R107, LEN_BAD: a byte below 3 or above 64 read in LEN, 0x02 among them, is discarded with cause BADLEN; one symbol is
consumed, the registers are those of HUNT, and the symbol after it is read in HUNT. -/
def Obligations.LenBadIsDiscarded : Prop :=
  (∀ (v : View) (l : Byte), v.st = .len → l.toNat < 3 ∨ 64 < l.toNat →
    decode v (.sym (symOfByte l)) = .ok (.lenBad l)) ∧
  ∀ (l : Byte) (s : State),
    exec (.lenBad l) s = .next { s with
      st := .hunt, idx := 0, lenR := 0, acc := 0x00,
      rx := s.rx.tail, out := [.discard (.badLen l)], res := none, tx := [] }

/-- R108 (the spec's decision D5), LEN_TIMEOUT: a Timeout in LEN is a discard of cause PARTIAL with info 1, and the
parser is in HUNT. -/
def Obligations.LenTimeoutIsPartial : Prop :=
  (∀ (v : View) (d : Byte), v.st = .len → decode v (.sym (0x100 ||| symOfByte d)) = .ok .lenTimeout) ∧
  ∀ s : State,
    exec .lenTimeout s = .next { s with
      st := .hunt, idx := 0, lenR := 0, acc := 0x00,
      rx := s.rx.tail, out := [.discard (.partialFrame 1)], res := none, tx := [] }

/-! ## The rows of BODY -/

/-- R109, BODY_BYTE: with `idx < len_r` every byte, whatever its value, is stored at `idx` and added to `acc`, and `idx`
goes up by one. `idx` is within the buffer (R22: its range is 0..64). -/
def Obligations.BodyByteIsCollected : Prop :=
  (∀ (v : View) (b : Byte), v.st = .body → v.idx < v.lenR →
    decode v (.sym (symOfByte b)) = .ok (.bodyByte b)) ∧
  ∀ (b : Byte) (s : State), s.idx.toNat ≤ 64 → ∃ t : State,
    exec (.bodyByte b) s = .next t ∧
    t = { s with
      idx := s.idx + 1, acc := s.acc + b, buf := Memory.write s.buf s.idx.toNat b,
      rx := s.rx.tail, out := [], res := none, tx := [] } ∧
    t.idx.toNat = s.idx.toNat + 1 ∧
    Memory.read t.buf s.idx.toNat = some b ∧
    ∀ a, a ≠ s.idx.toNat → Memory.read t.buf a = Memory.read s.buf a

/-- R110 (the spec's decision D6), BODY_LAST_OK: with `idx = len_r` and `acc = b` the byte is stored at `len_r`, the frame
`buf[0 .. len_r - 1] ++ [b]` is handed off, and the parser is in HUNT with its registers cleared. -/
def Obligations.BodyLastOkHandsOff : Prop :=
  (∀ (v : View) (b : Byte), v.st = .body → v.idx = v.lenR → v.acc = b →
    decode v (.sym (symOfByte b)) = .ok (.bodyLastOk b)) ∧
  ∀ (b : Byte) (s : State), s.lenR.toNat ≤ 64 → ∃ t : State,
    exec (.bodyLastOk b) s = .next t ∧
    t = { s with
      st := .hunt, idx := 0, lenR := 0, acc := 0x00, buf := Memory.write s.buf s.lenR.toNat b,
      rx := s.rx.tail,
      out := handoffOutputs s.drive.qReady ((List.range s.lenR.toNat).map (Memory.byte s.buf) ++ [b]),
      res := none, tx := [] } ∧
    Memory.read t.buf s.lenR.toNat = some b ∧
    ∀ a, a ≠ s.lenR.toNat → Memory.read t.buf a = Memory.read s.buf a

/-- R111, BODY_LAST_BAD: with `idx = len_r` and `acc` not equal to the byte, one discard of cause BADCHK with the computed
sum and the received byte; no frame is classified, no location is written, and the parser is in HUNT. -/
def Obligations.BodyLastBadIsDiscarded : Prop :=
  (∀ (v : View) (b : Byte), v.st = .body → v.idx = v.lenR → v.acc ≠ b →
    decode v (.sym (symOfByte b)) = .ok (.bodyLastBad b)) ∧
  ∀ (b : Byte) (s : State),
    exec (.bodyLastBad b) s = .next { s with
      st := .hunt, idx := 0, lenR := 0, acc := 0x00,
      rx := s.rx.tail, out := [.discard (.badChk s.acc b)], res := none, tx := [] }

/-- R112, BODY_TIMEOUT: a Timeout in BODY, at any `idx`, is a discard of cause PARTIAL with `idx`, the number of frame
bytes accepted so far, which in a legal state (Safety.lean `State.Legal`) is 2 to 64; and the parser is in HUNT. -/
def Obligations.BodyTimeoutIsPartial : Prop :=
  (∀ (v : View) (d : Byte), v.st = .body → decode v (.sym (0x100 ||| symOfByte d)) = .ok .bodyTimeout) ∧
  (∀ s : State,
    exec .bodyTimeout s = .next { s with
      st := .hunt, idx := 0, lenR := 0, acc := 0x00,
      rx := s.rx.tail, out := [.discard (.partialFrame s.idx)], res := none, tx := [] }) ∧
  ∀ s : State, s.Legal → s.st = .body → 2 ≤ s.idx.toNat ∧ s.idx.toNat ≤ 64

/-! ## Control events -/

/-- R114 (the spec's decision D13), STOP: in LEN or BODY one discard STOP_PARTIAL with `idx`, in HUNT none; the
registers are cleared, the parser is in STOPPED, and no symbol is consumed. -/
def Obligations.StopDropsTheFrame : Prop :=
  (∀ v : View, v.st ≠ .stopped → decode v (.ctrl 0b01) = .ok .stop) ∧
  ∀ s : State,
    ((s.st = .len ∨ s.st = .body) →
      exec .stop s = .next { s with
        st := .stopped, idx := 0, lenR := 0, acc := 0x00,
        out := [.discard (.stopPartial s.idx)], res := none, tx := [] }) ∧
    ((s.st = .hunt ∨ s.st = .stopped) →
      exec .stop s = .next { s with
        st := .stopped, idx := 0, lenR := 0, acc := 0x00, out := [], res := none, tx := [] })

/-- R115, STOPPED_HOLD (the spec's decision D13): in STOPPED every symbol and the Event `Stop` select the row, which
changes nothing, has no Output and consumes no symbol, and `rx_ready` is 0; the one other row that an Event can select there
is RESET. -/
def Obligations.StoppedHoldsStill : Prop :=
  (∀ v : View, v.st = .stopped →
    decode v (.ctrl 0b01) = .ok .stoppedHold ∧ (∀ x : SymbolWord, decode v (.sym x) = .ok .stoppedHold) ∧
    ∀ (p : BitVec 2) (i : Instr), decode v (.ctrl p) = .ok i → i = .stoppedHold ∨ (i = .reset ∧ p.getLsbD 1 = true)) ∧
  (∀ s : State, s.st = .stopped → rxReady s = false) ∧
  ∀ s : State, exec .stoppedHold s = .next { s with out := [], res := none, tx := [] }

/-- R116, RESET (the spec's decision D11): in any state, whatever `stop` is, the parser's registers take their reset
values; `buf` is not written, no Output, no symbol consumed. It is the only way out of STOPPED. That the composer's
accumulator stays as it was is the model's choice (log entry 2): the spec does not say what `Rst` does to it. -/
def Obligations.ResetClearsTheParser : Prop :=
  (∀ v : View, decode v (.ctrl 0b10) = .ok .reset ∧ decode v (.ctrl 0b11) = .ok .reset) ∧
  (∀ s t : State, s.st = .stopped → step s = .next t → t.st ≠ .stopped →
    ∃ p, fetch s = some (.ctrl p) ∧ decode s.view (.ctrl p) = .ok .reset) ∧
  ∀ s : State,
    exec .reset s = .next { s with
      st := .hunt, idx := 0, lenR := 0, acc := 0x00, out := [], res := none, tx := [] }

/-- R34 and R161 (the spec's decision D11): the values right after reset, and after `Rst` in any state. No location of
`buf` has a value at reset and `Rst` writes none; the first symbol is read as a candidate start marker. That reset state
of the model has no pending input, and `txAcc = 0`, are the model's own (log entries 2 and 6) and are not stated here.
-/
def Obligations.ResetValues : Prop :=
  State.reset.st = .hunt ∧ State.reset.idx = 0 ∧ State.reset.lenR = 0 ∧ State.reset.acc = 0x00 ∧
  (∀ a, Memory.read State.reset.buf a = none) ∧ State.reset.out = [] ∧
  decode State.reset.view (.sym 0x002) = .ok .huntSof ∧
  ∀ s : State, ∃ t : State,
    exec .reset s = .next t ∧
    t.st = .hunt ∧ t.idx = 0 ∧ t.lenR = 0 ∧ t.acc = 0x00 ∧ t.buf = s.buf ∧ t.out = [] ∧
    decode t.view (.sym 0x002) = .ok .huntSof

/-! ## The accumulator -/

/-- R87 (the spec's decision D22), R88, R89: ACC_LOAD gives 0x02 whatever `acc` held, ACC_ADD the sum modulo 256,
ACC_CMP the equality and leaves `acc` as it was. Nothing else of the parser changes. The spec has them as parts of
parser steps and does not store `chk_ok`: that each is an operation that answers a next state by itself, with `chk_ok`
as its answer, is the model's choice (log entry 10). -/
def Obligations.AccumulatorOperations : Prop :=
  ∀ (b : Byte) (s : State),
    exec .accLoad s = .next { s with acc := 0x02, out := [], res := none, tx := [] } ∧
    exec (.accAdd b) s =
      .next { s with
        acc := BitVec.ofNat 8 ((s.acc.toNat + b.toNat) % 256), out := [], res := none, tx := [] } ∧
    exec (.accCmp b) s =
      .next { s with out := [], res := some (.chkOk (decide (s.acc = b))), tx := [] }

/-- R85: the checksum may be formed in any order and grouping and reduced after every addition or once at the end; the
accumulator's running value is the checksum; a byte 0x00 leaves it unchanged. -/
def Obligations.ChecksumIsOrderFree : Prop :=
  (∀ s t : List Byte, s.Perm t → sum8 s = sum8 t) ∧
  (∀ s t : List Byte, sum8 (s ++ t) = add8 (sum8 s) (sum8 t)) ∧
  (∀ (s : List Byte) (a : Byte), s.foldl accAdded a = add8 a (sum8 s)) ∧
  (∀ s : List Byte, sum8 (0x00 :: s) = sum8 s) ∧
  sum8 [] = 0x00

/-! ## The command map, the classifier and the hand-off -/

/-- R69, R120 (the spec's decision D24): the class of every command byte, as the rows of the command map answer it, with
the class's queue bit, which is R121 (the spec's decision D10); and the row that each command byte selects. -/
def Obligations.CommandMapClasses : Prop :=
  (∀ s : State,
    exec .cmdAck0 s = .next { s with out := [], res := some (.frameClass .ack (some 0)), tx := [] } ∧
    exec .cmdAck1 s = .next { s with out := [], res := some (.frameClass .ack (some 0)), tx := [] } ∧
    exec .cmdGetReply s = .next { s with out := [], res := some (.frameClass .getReply (some 2)), tx := [] } ∧
    exec .cmdLog s = .next { s with out := [], res := some (.frameClass .ignored none), tx := [] } ∧
    exec .cmdEvent s = .next { s with out := [], res := some (.frameClass .event (some 1)), tx := [] } ∧
    ∀ c : Byte, exec (.cmdOther c) s = .next { s with out := [], res := some (.frameClass .ignored none), tx := [] }) ∧
  ∀ v : View,
    decode v (.cmd 0x00) = .ok .cmdAck0 ∧ decode v (.cmd 0x01) = .ok .cmdAck1 ∧
    decode v (.cmd 0x02) = .ok .cmdGetReply ∧ decode v (.cmd 0x03) = .ok .cmdLog ∧
    decode v (.cmd 0x08) = .ok .cmdEvent ∧
    ∀ c : Byte, c ≠ 0x00 → c ≠ 0x01 → c ≠ 0x02 → c ≠ 0x03 → c ≠ 0x08 → decode v (.cmd c) = .ok (.cmdOther c)

/-- R120 (the spec's decision D24): the class of a frame by its command byte `c` and nothing else, as CLASSIFY answers
it with the class's queue bit (R121, the spec's decision D10), and as the row of the command map that `c` selects
answers it. It holds for every sequence that has a byte 2, so for every validated frame. -/
def Obligations.ClassifyFollowsTheCommandMap : Prop :=
  ∀ (f : List Byte) (c : Byte) (s : State), f[2]? = some c →
    exec (.classify f) s = .next { s with
      out := [],
      res := some
        (if c = 0x00 ∨ c = 0x01 then .frameClass .ack (some 0)
         else if c = 0x02 then .frameClass .getReply (some 2)
         else if c = 0x08 then .frameClass .event (some 1)
         else .frameClass .ignored none),
      tx := [] } ∧
    exec (.classify f) s = exec (decodeCommand c) s

/-- R120, R126: CLASSIFY and TRIPLE run on every operand and touch nothing but the answer. CLASSIFY of a sequence without
a byte 2, which is no validated frame, is computed from a free value (log entry 4). TRIPLE gives the bytes 3, 4, 5 of
a sequence of 7 or more and none of a shorter one. -/
def Obligations.ClassifyAndTripleAnswer : Prop :=
  (∀ (f : List Byte) (s : State), ∃ c : FrameClass,
    exec (.classify f) s = .next { s with out := [], res := some (.frameClass c (queueOf c)), tx := [] }) ∧
  (∀ (s : State) (b0 b1 b2 x y z b6 : Byte) (r : List Byte),
    exec (.triple (b0 :: b1 :: b2 :: x :: y :: z :: b6 :: r)) s =
      .next { s with out := [], res := some (.triple (some ⟨x, y, z⟩)), tx := [] }) ∧
  ∀ (f : List Byte) (s : State), f.length < 7 →
    exec (.triple f) s = .next { s with out := [], res := some (.triple none), tx := [] }

/-- R122 to R125 (the spec's decisions D15 and D17): the Outputs of the hand-off of a frame with command byte `c`, by
its class and the one `q_ready` bit of that class. -/
def Obligations.HandoffOutputsByClass : Prop :=
  ∀ (q : BitVec 3) (f : List Byte) (c : Byte), f[2]? = some c →
    ((c = 0x00 ∨ c = 0x01) →
      handoffOutputs q f =
        [.classified .ack f (tripleOf f), if q.getLsbD 0 then .push .ack f else .discard (.qFull .ack f)]) ∧
    (c = 0x08 →
      handoffOutputs q f =
        [.classified .event f (tripleOf f), if q.getLsbD 1 then .push .event f else .discard (.qFull .event f)]) ∧
    (c = 0x02 →
      handoffOutputs q f =
        [.classified .getReply f (tripleOf f),
          if q.getLsbD 2 then .push .getReply f else .discard (.qFull .getReply f)]) ∧
    (c ≠ 0x00 → c ≠ 0x01 → c ≠ 0x02 → c ≠ 0x08 →
      handoffOutputs q f = [.classified .ignored f (tripleOf f)])

/-- R122 (the spec's decision D15): HANDOFF puts out nothing but the hand-off's Outputs and changes no register, no
location of `buf` and no part of the symbol stream: it never waits. R122 gives it for a validated frame, as the tail of
BODY_LAST_OK: that it runs on every operand (log entry 4) and is an operation by itself (log entry 10) is the model's
choice. -/
def Obligations.HandoffNeverWaits : Prop :=
  ∀ (f : List Byte) (s : State),
    exec (.handoff f) s =
      .next { s with out := handoffOutputs s.drive.qReady f, res := none, tx := [] }

/-! ## The functions -/

/-- R85 and R135: what CHECKSUM and VALID answer, for every byte sequence. -/
def Obligations.ChecksumAndValidAnswer : Prop :=
  (∀ (bs : List Byte) (s : State),
    exec (.checksum bs) s = .next { s with
      out := [], res := some (.sum (BitVec.ofNat 8 ((bs.map BitVec.toNat).sum % 256))), tx := [] }) ∧
  ∀ (f : List Byte) (s : State), ∃ v : Bool,
    exec (.valid f) s = .next { s with out := [], res := some (.isValid v), tx := [] } ∧
    (v = true ↔
      4 ≤ f.length ∧ f.length ≤ 65 ∧ f[0]? = some 0x02 ∧ f[1]? = some (BitVec.ofNat 8 (f.length - 1)) ∧
      f[f.length - 1]? = some (sum8 (f.take (f.length - 1))))

/-- R130, R131, R134 (the spec's decisions D19 and D22): COMPOSE of at most 61 payload bytes answers START, `n + 3`, the
command, the payload and their sum, and the composer, with an accumulator of its own, sends exactly these bytes in this
order; of more it answers FrameTooLarge with the payload length and sends nothing. The parser's own state is untouched.
That the whole frame is sent in the step that answers the caller, and that on FrameTooLarge the composer's accumulator
is not loaded, is the model's choice (log entry 16). -/
def Obligations.ComposeBuildsAndSendsTheFrame : Prop :=
  ∀ (c : Byte) (p : List Byte) (s : State),
    (p.length ≤ 61 →
      exec (.compose c p) s = .next { s with
        out := [],
        res := some (.frame ([0x02, BitVec.ofNat 8 (p.length + 3), c] ++ p ++
          [sum8 ([0x02, BitVec.ofNat 8 (p.length + 3), c] ++ p)])),
        txAcc := sum8 ([0x02, BitVec.ofNat 8 (p.length + 3), c] ++ p),
        tx := [0x02, BitVec.ofNat 8 (p.length + 3), c] ++ p ++
          [sum8 ([0x02, BitVec.ofNat 8 (p.length + 3), c] ++ p)] }) ∧
    (62 ≤ p.length →
      exec (.compose c p) s = .next { s with out := [], res := some (.frameTooLarge p.length), tx := [] } ∧
      failureCode (.frameTooLarge p.length) = some 7)

/-- R30, R134: the composer's accumulator and its output are touched by COMPOSE and by no other operation. That RESET is
among the others is the model's choice (log entry 2): the spec does not say what `Rst` does to the composer. -/
def Obligations.OnlyComposeTouchesTheComposer : Prop :=
  ∀ (i : Instr) (s t : State), exec i s = .next t → (∀ (c : Byte) (p : List Byte), i ≠ .compose c p) →
    t.txAcc = s.txAcc ∧ t.tx = []

/-- R132, R133: PARSE_STATE makes exactly two tests. A sequence shorter than 7 is invalid; of a longer one, the last byte
is compared with the sum of all before it, and on a match the bytes 3, 4, 5 are the answer, whatever the other bytes are. -/
def Obligations.ParseStateAnswer : Prop :=
  (∀ (f : List Byte) (s : State), f.length < 7 →
    exec (.parseState f) s = .next { s with out := [], res := some .invalid, tx := [] }) ∧
  ∀ (s : State) (b0 b1 b2 x y z k : Byte) (r : List Byte),
    exec (.parseState (b0 :: b1 :: b2 :: x :: y :: z :: (r ++ [k]))) s = .next { s with
      out := [],
      res := some (if sum8 (b0 :: b1 :: b2 :: x :: y :: z :: r) = k then .parsed ⟨x, y, z⟩ else .invalid),
      tx := [] }

/-- R136, round trip: a composed frame is valid, carries its command and payload, and `parseState` gives back the first
three payload bytes. -/
def Obligations.ComposeParseRoundTrip : Prop :=
  ∀ (c : Byte) (p : List Byte), p.length ≤ 61 → ∃ f : List Byte,
    composeFrame c p = .frame f ∧ validFrame f = true ∧
    f[2]? = some c ∧ (f.drop 3).take p.length = p ∧
    ∀ (x y z : Byte) (r : List Byte), p = x :: y :: z :: r → parseFrame f = some ⟨x, y, z⟩

/-- R130, R135: the valid frames are exactly what `compose` can build. -/
def Obligations.ValidFramesAreTheComposedOnes : Prop :=
  ∀ f : List Byte, validFrame f = true ↔ ∃ (c : Byte) (p : List Byte), composeFrame c p = .frame f

/-- R137, R91: a composed frame with any one byte replaced by a different value is invalid for `parseState`. -/
def Obligations.SingleByteChangeIsRejected : Prop :=
  ∀ (c : Byte) (p g : List Byte) (i : Nat) (b : Byte),
    composeFrame c p = .frame g → 3 ≤ p.length → i < g.length → g[i]? ≠ some b →
    parseFrame (g.set i b) = none

/-! ## Decoding -/

/-- R81: decoding the word of a well-formed operation, in a state in which its row applies, gives the operation back,
every operand included. -/
def Obligations.DecodeEncodeRoundTrip : Prop :=
  ∀ (i : Instr) (v : View), i.wellFormed = true → i.selectedIn v = true → decode v (encode i) = .ok i

/-- R81, R118: within one state the rows of format SYM are mutually exclusive and cover all 512 symbols, and the decoder
gives the one that matches by the table's `match`, `mask` and constraints. In BODY, `idx` is at most `len_r` (R35). -/
def Obligations.EverySymbolHasExactlyOneRow : Prop :=
  ∀ (v : View) (x : SymbolWord), (v.st = .body → v.idx ≤ v.lenR) →
    ∃ i : Instr, decode v (.sym x) = .ok i ∧ symMatches v i x = true ∧
      ∀ j : Instr, symMatches v j x = true → j = i

/-- R81: every command byte has exactly one row of format CMD, and the row's own word is that byte. -/
def Obligations.EveryCommandHasExactlyOneRow : Prop :=
  ∀ (v : View) (c : Byte), ∃ i : Instr,
    decode v (.cmd c) = .ok i ∧ i.wellFormed = true ∧ encode i = .cmd c ∧
    ∀ j : Instr, j.wellFormed = true → encode j = .cmd c → j = i

/-- R102 to R116, R69, R120: words written out from the table's encodings decode to the operations they stand for. -/
def Obligations.TableWordsDecode : Prop :=
  decode ⟨.hunt, 0, 0, 0⟩ (.sym 0b000000010) = .ok .huntSof ∧
  decode ⟨.hunt, 0, 0, 0⟩ (.sym 0b001000001) = .ok (.huntNoise 0x41) ∧
  decode ⟨.len, 1, 0, 0x02⟩ (.sym 0b001000000) = .ok (.lenOk 64) ∧
  decode ⟨.len, 1, 0, 0x02⟩ (.sym 0b001000001) = .ok (.lenBad 65) ∧
  decode ⟨.body, 6, 6, 0x15⟩ (.sym 0b000010101) = .ok (.bodyLastOk 0x15) ∧
  decode ⟨.body, 6, 6, 0x14⟩ (.sym 0b000010101) = .ok (.bodyLastBad 0x15) ∧
  decode ⟨.body, 4, 6, 0x11⟩ (.sym 0b100000000) = .ok .bodyTimeout ∧
  decode ⟨.stopped, 0, 0, 0⟩ (.ctrl 0b01) = .ok .stoppedHold ∧
  decode ⟨.hunt, 0, 0, 0⟩ (.cmd 0b00001000) = .ok .cmdEvent

/-! ## One step of the machine -/

/-- R8, R100, R20 (the spec's decisions D1 and D14): a step runs the operation that the Event's word decodes to, on the
state as it is, and then the step's input has passed. Without an Event nothing changes but that the strobes are low and the
input has passed. A caller's request is run beside it, on the same state: its answer, the bytes sent and the composer's
accumulator are those of its operation, which always answers, and all the rest is the parser's; that it is answered in
that step is the model's choice (log entry 7). No operation is refused. That a word the decoder refuses is a fault of that
name is the model's choice (log entry 17); R35 excludes the states in which that can happen. -/
def Obligations.StepRunsTheDecodedOperation : Prop :=
  (∀ (s : State) (w : OpWord) (i : Instr), fetch s = some w → decode s.view w = .ok i →
    (∀ t : State, exec i s = .next t →
      (s.drive.call = none → step s = .next { t with inputs := t.inputs.tail }) ∧
      ∀ (c : Call) (j : Instr) (u : State), s.drive.call = some c → decode s.view (callWord c) = .ok j →
        exec j s = .next u →
        step s = .next { t with txAcc := u.txAcc, res := u.res, tx := u.tx, inputs := t.inputs.tail }) ∧
    (∀ r : Fault, exec i s = .fault r → step s = .fault r)) ∧
  (∀ s : State, fetch s = none →
    (s.drive.call = none → step s = .next { s with out := [], res := none, tx := [], inputs := s.inputs.tail }) ∧
    ∀ (c : Call) (j : Instr) (u : State), s.drive.call = some c → decode s.view (callWord c) = .ok j →
      exec j s = .next u → step s = .next { u with inputs := u.inputs.tail }) ∧
  (∀ (s : State) (c : Call), ∃ (j : Instr) (u : State), decode s.view (callWord c) = .ok j ∧ exec j s = .next u) ∧
  (∀ (i : Instr) (s : State) (r : Refusal), exec i s ≠ .refused r) ∧
  ∀ (s : State) (w : OpWord) (e : DecodeError), fetch s = some w → decode s.view w = .error e →
    step s = .fault (.undecoded e)

/-- R100 (the spec's decision D14): what one step takes. `rst` beats `stop` and `stop` beats a symbol; without any of
the three there is no Event. In STOPPED, where R100's clocked reading has no Event for `stop` or a symbol, both are
fetched and `stop` selects STOPPED_HOLD (R115); that reading of the two rules together is the model's (log entry 13).
What a caller asks for has no part in it (R20, log entry 7). -/
def Obligations.EventPriority : Prop :=
  ∀ (s : State) (d : Drive) (r : List Drive), s.inputs = d :: r →
    (d.rst = true → ∃ p, fetch s = some (.ctrl p) ∧ decode s.view (.ctrl p) = .ok .reset) ∧
    (d.rst = false → d.stop = true → s.st ≠ .stopped →
      fetch s = some (.ctrl 0b01) ∧ decode s.view (.ctrl 0b01) = .ok .stop) ∧
    (d.rst = false → d.stop = true → s.st = .stopped →
      fetch s = some (.ctrl 0b01) ∧ decode s.view (.ctrl 0b01) = .ok .stoppedHold) ∧
    (d.rst = false → d.stop = false → d.rxValid = true →
      ∀ (x : SymbolWord) (xs : List SymbolWord), s.rx = x :: xs → fetch s = some (.sym x)) ∧
    (d.rst = false → d.stop = false → d.rxValid = false ∨ s.rx = [] → fetch s = none) ∧
    ∀ c : Option Call, fetch { s with inputs := { d with call := c } :: r } = fetch s

/-- R100, R116 (the spec's decisions D11 and D14): a step with `rst = 1` resets the parser from any state, whatever
`stop` and the offered symbol are and whatever a caller asks for; the symbol is not consumed. That without a request the
composer's accumulator stays as it was is the model's choice (log entry 2). -/
def Obligations.RstWinsInEveryState : Prop :=
  ∀ (s : State) (d : Drive) (r : List Drive), s.inputs = d :: r → d.rst = true →
    ∃ t : State, step s = .next t ∧
      t = { s with
        st := .hunt, idx := 0, lenR := 0, acc := 0x00, inputs := r, out := [],
        txAcc := t.txAcc, res := t.res, tx := t.tx } ∧
      (d.call = none → t.txAcc = s.txAcc ∧ t.res = none ∧ t.tx = [])

/-- R114, R164, R176 (the spec's decision D13): a step with `stop = 1` and `rst = 0` ends in STOPPED from any state,
within that one step; no symbol is consumed, and a frame in progress is dropped with STOP_PARTIAL. -/
def Obligations.StopIsObservedAtOnce : Prop :=
  ∀ (s : State) (d : Drive) (r : List Drive), s.inputs = d :: r → d.rst = false → d.stop = true →
    ∃ t : State, step s = .next t ∧ t.st = .stopped ∧ t.rx = s.rx ∧ t.buf = s.buf ∧ t.inputs = r ∧
      (s.st ≠ .stopped → t.idx = 0 ∧ t.lenR = 0 ∧ t.acc = 0x00) ∧
      t.out = (if s.st = .len ∨ s.st = .body then [.discard (.stopPartial s.idx)] else [])

/-- R172, R27, R46, R54, R113 (the spec's decisions D2, D7 and D25): `rx_ready` is 1 in HUNT, LEN and BODY unless the
step's Event is `Rst` or `Stop`, whatever callers ask for, and 0 in STOPPED. A step takes the symbol the Link offers
exactly when `rx_ready` and `rx_valid` are both 1, and then that one symbol is gone from the stream; in every other step
the stream is as it was. -/
def Obligations.EachSymbolIsTakenOnce : Prop :=
  (∀ s : State, rxReady s = true ↔
    (s.st = .hunt ∨ s.st = .len ∨ s.st = .body) ∧ ∀ p : BitVec 2, fetch s ≠ some (.ctrl p)) ∧
  ∀ s t : State, step s = .next t →
    t.rx = (if rxReady s && s.drive.rxValid then s.rx.tail else s.rx) ∧ t.inputs = s.inputs.tail ∧
    (rxReady s = true ↔ s.st ≠ .stopped ∧ s.drive.rst = false ∧ s.drive.stop = false)

/-- R115 (the spec's decision D13): once in STOPPED, a run without `rst` stays there, has no Output and consumes no
symbol, however long it is. -/
def Obligations.StoppedIsAbsorbing : Prop :=
  ∀ (k : Nat) (s : State), s.st = .stopped →
    (∀ (n : Nat) (d : Drive), n < k → s.inputs[n]? = some d → d.rst = false) →
    ∃ t : State, runSteps k s = .next t ∧
      t.st = .stopped ∧ t.idx = s.idx ∧ t.lenR = s.lenR ∧ t.acc = s.acc ∧ t.buf = s.buf ∧ t.rx = s.rx ∧
      runOutputs k s = []

/-- R20, R30, R134 (the spec's decision D22): a caller is answered while the parser goes on as if nobody had asked: with
the request and without it, the step leaves the same registers, buffer, stream and inputs and puts out the same Outputs,
and stops in the same cases; the one with the request has an answer. That the answer comes in that step is the model's
choice (log entry 7). -/
def Obligations.CallsDoNotTouchTheParser : Prop :=
  ∀ (s : State) (d : Drive) (r : List Drive) (c : Call),
    (∀ t : State, step { s with inputs := { d with call := none } :: r } = .next t →
      ∃ u : State, step { s with inputs := { d with call := some c } :: r } = .next u ∧
        u = { t with txAcc := u.txAcc, res := u.res, tx := u.tx } ∧ t.res = none ∧ u.res ≠ none) ∧
    ∀ f : Fault, step { s with inputs := { d with call := none } :: r } = .fault f →
      step { s with inputs := { d with call := some c } :: r } = .fault f

/-! ## The legal states -/

/-- R35: the invariants hold right after reset. -/
def Obligations.ResetIsLegal : Prop := State.reset.Legal

/-- R35: every step from a legal state that answers a next state keeps the invariants; the buffer keeps its canonical
form. -/
def Obligations.EveryStepKeepsLegal : Prop :=
  ∀ s t : State, s.Legal → step s = .next t → t.Legal

/-- R118: in a legal state every step answers a next state: no fault, no refusal, whatever is offered. -/
def Obligations.LegalStatesNeverStop : Prop :=
  ∀ s : State, s.Legal → ∃ t : State, step s = .next t

/-- R118: from a legal state, the state after reset among them, no run ever stops, whatever the environment does. -/
def Obligations.LegalStatesRunSafely : Prop :=
  (∀ s : State, s.Legal → s.RunsSafely) ∧
  ∀ (rx : List SymbolWord) (ins : List Drive), State.RunsSafely { State.reset with rx := rx, inputs := ins }

/-- Where the model stops: a byte in BODY with `idx > len_r` is refused by the decoder, and a store outside the 65
locations (R40, R48) faults. R35 excludes these states and R118 says that the parser never faults: that the model stops
there is its own choice (log entry 17). The last clause is R35. -/
def Obligations.WhereTheMachineStops : Prop :=
  (∀ (v : View) (x : SymbolWord), v.st = .body → v.lenR < v.idx → symIsTimeout x = false →
    decode v (.sym x) = .error .noRowForIndex) ∧
  (∀ (b : Byte) (s : State), 65 ≤ s.idx.toNat → exec (.bodyByte b) s = .fault (.bufferAddress s.idx.toNat)) ∧
  (∀ (b : Byte) (s : State), 65 ≤ s.lenR.toNat → exec (.bodyLastOk b) s = .fault (.bufferAddress s.lenR.toNat)) ∧
  ∀ s : State, s.Legal → s.idx.toNat ≤ 64 ∧ s.lenR.toNat ≤ 64 ∧ (s.st = .body → s.idx ≤ s.lenR)

/-- R25: a step writes the location `idx` and no other, and only a step that accepts a byte of a frame writes at all: a
step that runs none of HUNT_SOF, LEN_OK, BODY_BYTE, BODY_LAST_OK (a Timeout, noise, a bad length or checksum, `Stop`,
`Rst`, a caller's request, or no Event) leaves all of `buf` as it was, in every state. -/
def Obligations.OnlyTheIndexedByteIsWritten : Prop :=
  (∀ s t : State, s.Legal → step s = .next t →
    ∀ a, a ≠ s.idx.toNat → Memory.read t.buf a = Memory.read s.buf a) ∧
  ∀ s t : State, step s = .next t →
    (∀ (w : OpWord) (i : Instr), fetch s = some w → decode s.view w = .ok i →
      i ≠ .huntSof ∧ ∀ b : Byte, i ≠ .lenOk b ∧ i ≠ .bodyByte b ∧ i ≠ .bodyLastOk b) →
    t.buf = s.buf

/-! ## What the parser puts out -/

/-- R127, R148, R122, R123: a step hands off at most one frame and has at most one `Discard`. A `Push` follows a
`Classified` of the same class and frame in the same step, and its class is not Ignored. A step that is not BODY_LAST_OK
hands off nothing. -/
def Obligations.StepOutputsShape : Prop :=
  ∀ s t : State, step s = .next t →
    (t.out.filter Output.isClassified).length ≤ 1 ∧
    (t.out.filter Output.isPush).length ≤ 1 ∧
    (t.out.filter Output.isDiscard).length ≤ 1 ∧
    (∀ (c : FrameClass) (f : List Byte), Output.push c f ∈ t.out →
      c ≠ .ignored ∧ t.out = [.classified c f (tripleOf f), .push c f]) ∧
    (t.out.any Output.isClassified = true →
      ∃ (w : OpWord) (b : Byte), fetch s = some w ∧ decode s.view w = .ok (.bodyLastOk b))

/-- R138, first half, R45 and R122: from a legal state every frame in a `Classified` or `Push` Output is valid, and its
class and triple are those of the frame. -/
def Obligations.EmittedFramesAreValid : Prop :=
  ∀ s t : State, s.Legal → step s = .next t →
    (∀ (c : FrameClass) (f : List Byte) (tr : Option Triple), Output.classified c f tr ∈ t.out →
      validFrame f = true ∧ c = classifyFrame f ∧ tr = tripleOf f) ∧
    ∀ (c : FrameClass) (f : List Byte), Output.push c f ∈ t.out → validFrame f = true ∧ c = classifyFrame f

/-- R138, second half: a valid frame read from HUNT without a Timeout is handed off in the step that consumes its last
byte, nothing is put out before, and the parser is in HUNT again. -/
def Obligations.ValidFrameIsDelivered : Prop :=
  ∀ (s : State) (f : List Byte) (q : BitVec 3), s.Legal → s.st = .hunt → validFrame f = true →
    runOutputs f.length (s.offer (byteStream q f)) = handoffOutputs q f ∧
    ∃ t : State, runSteps f.length (s.offer (byteStream q f)) = .next t ∧
      t.st = .hunt ∧ t.out = handoffOutputs q f ∧ t.rx = [] ∧
      Output.classified (classifyFrame f) f (tripleOf f) ∈ t.out

/-- R110, R174, R50: valid frames back to back, with no symbol between them, are all handed off, in the order in which
they came, nothing else is put out, and the run ends in HUNT with its registers cleared and the stream used up. -/
def Obligations.BackToBackFramesAreDelivered : Prop :=
  ∀ (s : State) (frames : List (List Byte)) (q : BitVec 3), s.Legal → s.st = .hunt →
    (∀ f ∈ frames, validFrame f = true) →
    runOutputs frames.flatten.length (s.offer (byteStream q frames.flatten)) =
      (frames.map (handoffOutputs q)).flatten ∧
    ∃ t : State, runSteps frames.flatten.length (s.offer (byteStream q frames.flatten)) = .next t ∧
      t.st = .hunt ∧ t.idx = 0 ∧ t.lenR = 0 ∧ t.acc = 0x00 ∧ t.rx = []

/-- R117: for every symbol stream read from HUNT with `rst = 0` and `stop = 0`, what the machine puts out step by step
is what the spec's own equations for `scan` give. -/
def Obligations.MachineAgreesWithScan : Prop :=
  ∀ (s : State) (stream : List (BitVec 3 × SymbolWord)), s.Legal → s.st = .hunt →
    runOutputs stream.length (s.offer stream) = scan stream

/-- S3 with its precondition (R104, R103, R105, R138; 90_conflicts.md C5): noise without a byte 0x02, Timeouts among it,
and then a valid frame yield one discard for each noise byte and exactly the hand-off of that frame, and the run ends in
HUNT with its registers cleared and the stream used up. That 0x0A and 0x0D are the bytes of cause NOISE_QUIET is the
spec's decision D8 on its G1 (log entry 14). -/
def Obligations.NoiseThenFrameResynchronises : Prop :=
  ∀ (s : State) (noise : List (BitVec 3 × SymbolWord)) (f : List Byte) (q : BitVec 3),
    s.Legal → s.st = .hunt → validFrame f = true →
    (∀ x ∈ noise, symIsTimeout x.2 = true ∨ symData x.2 ≠ 0x02) →
    runOutputs (noise.length + f.length) (s.offer (noise ++ byteStream q f)) =
      noise.filterMap (fun x =>
        if symIsTimeout x.2 then none
        else if symData x.2 = 0x0A ∨ symData x.2 = 0x0D then
          some (Output.discard (.noiseQuiet (symData x.2)))
        else some (Output.discard (.noise (symData x.2)))) ++
      handoffOutputs q f ∧
    ∃ t : State, runSteps (noise.length + f.length) (s.offer (noise ++ byteStream q f)) = .next t ∧
      t.st = .hunt ∧ t.idx = 0 ∧ t.lenR = 0 ∧ t.acc = 0x00 ∧ t.rx = []

/-- R118: from any legal state but STOPPED, at most 64 further symbols bring the parser back to HUNT. -/
def Obligations.BackToHuntWithin64Symbols : Prop :=
  ∀ (s : State) (stream : List (BitVec 3 × SymbolWord)), s.Legal → s.st ≠ .stopped → 64 ≤ stream.length →
    ∃ (k : Nat) (t : State), k ≤ 64 ∧ runSteps k (s.offer stream) = .next t ∧ t.st = .hunt

/-- R127: between a state in HUNT and the next hand-off at least four symbols are consumed. -/
def Obligations.HandoffsAreFourSymbolsApart : Prop :=
  ∀ (k : Nat) (s t : State), s.Legal → s.st = .hunt → runSteps (k + 1) s = .next t →
    t.out.any Output.isClassified = true → t.rx.length + 4 ≤ s.rx.length

/-- R36, R25, R173: what the parser puts out from HUNT does not depend on anything that came before: two legal states in
HUNT given the same stream and the same control inputs put out the same, however their buffers and everything else
differ. -/
def Obligations.StaleStateIsUnobservable : Prop :=
  ∀ (k : Nat) (s₁ s₂ : State), s₁.Legal → s₂.Legal → s₁.st = .hunt → s₂.st = .hunt →
    s₁.rx = s₂.rx → s₁.inputs = s₂.inputs → runOutputs k s₁ = runOutputs k s₂

/-! ## The ports -/

/-- R78, R121, R123, R140 (the spec's decision D10): the codes on the ports; `q_push` has the one bit of the class whose
frame is pushed, and on a full queue the class code is on the diagnostic info while the frame is on the frame port. The
ports are those of R27, the triple that of R126. That the bits of the info above the class code are 0 is the model's
reading (log entry 8). -/
def Obligations.PortCodes : Prop :=
  (stateCode .hunt = 0 ∧ stateCode .len = 1 ∧ stateCode .body = 2 ∧ stateCode .stopped = 3) ∧
  (classCode .ack = 0 ∧ classCode .event = 1 ∧ classCode .getReply = 2 ∧ classCode .ignored = 3) ∧
  (∀ (b l : Byte) (n : Index) (x y : Byte) (c : FrameClass) (f : List Byte),
    causeCode (.noiseQuiet b) = 0 ∧ causeCode (.noise b) = 1 ∧ causeCode (.badLen l) = 2 ∧
    causeCode (.partialFrame n) = 3 ∧ causeCode (.badChk x y) = 4 ∧ causeCode (.qFull c f) = 5 ∧
    causeCode (.stopPartial n) = 6) ∧
  (∀ n : Nat, failureCode (.frameTooLarge n) = some 7) ∧
  ∀ (q : BitVec 3) (f : List Byte) (c : Byte), f[2]? = some c → f.length ≤ 65 →
    framePort (handoffOutputs q f) =
      some { cls := classCode (classOfCommand c), len := BitVec.ofNat 7 f.length, data := f, triple := tripleOf f } ∧
    (BitVec.ofNat 7 f.length).toNat = f.length ∧
    pushPort (handoffOutputs q f) =
      (if (c = 0x00 ∨ c = 0x01) ∧ q.getLsbD 0 = true then 0b001
       else if c = 0x08 ∧ q.getLsbD 1 = true then 0b010
       else if c = 0x02 ∧ q.getLsbD 2 = true then 0b100
       else 0b000) ∧
    diagPort (handoffOutputs q f) =
      (if (c = 0x00 ∨ c = 0x01) ∧ q.getLsbD 0 = false then some { cause := 5, info := 0 }
       else if c = 0x08 ∧ q.getLsbD 1 = false then some { cause := 5, info := 1 }
       else if c = 0x02 ∧ q.getLsbD 2 = false then some { cause := 5, info := 2 }
       else none)

/-- R140, R27 (the spec's decision D10): what each row that discards puts on the ports: the cause with its info, no frame
and no push. BADCHK gives its two bytes 8 bits each; that the computed sum has the upper half, and that every shorter
info is widened with zeros, is the model's choice (log entry 8). -/
def Obligations.DiscardInfosOnThePorts : Prop :=
  ∀ (s : State) (b : Byte),
    (∃ t : State, exec .huntNoiseLf s = .next t ∧ DiagnosticOnly t.out 0 0x000A) ∧
    (∃ t : State, exec .huntNoiseCr s = .next t ∧ DiagnosticOnly t.out 0 0x000D) ∧
    (∃ t : State, exec (.huntNoise b) s = .next t ∧ DiagnosticOnly t.out 1 (BitVec.ofNat 16 b.toNat)) ∧
    (∃ t : State, exec (.lenBad b) s = .next t ∧ DiagnosticOnly t.out 2 (BitVec.ofNat 16 b.toNat)) ∧
    (∃ t : State, exec .lenTimeout s = .next t ∧ DiagnosticOnly t.out 3 1) ∧
    (∃ t : State, exec .bodyTimeout s = .next t ∧ DiagnosticOnly t.out 3 (BitVec.ofNat 16 s.idx.toNat)) ∧
    (∃ t : State, exec (.bodyLastBad b) s = .next t ∧
      DiagnosticOnly t.out 4 (BitVec.ofNat 16 (256 * s.acc.toNat + b.toNat))) ∧
    ((s.st = .len ∨ s.st = .body) →
      ∃ t : State, exec .stop s = .next t ∧ DiagnosticOnly t.out 6 (BitVec.ofNat 16 s.idx.toNat))
end

