-- ==== Sys2Proof/Laws/Arith.lean ====
section
/-! SUPPORT. The checksum arithmetic and byte access by index. -/

namespace Sys2Proof.Machine

@[simp] theorem sum8_nil : sum8 [] = 0 := rfl

theorem sum8_toNat (s : List Byte) : (sum8 s).toNat = (s.map BitVec.toNat).sum % 256 := by
  simp [sum8, Config.sumMod]

theorem add8_toNat (a b : Byte) : (add8 a b).toNat = (a.toNat + b.toNat) % 256 := by
  simp [add8, BitVec.toNat_add]

/-- One more byte at the end of the sequence is one `add8`. -/
theorem sum8_concat (s : List Byte) (b : Byte) : sum8 (s ++ [b]) = add8 (sum8 s) b := by
  apply BitVec.eq_of_toNat_eq
  rw [sum8_toNat, add8_toNat, sum8_toNat]
  simp

/-- One more byte at the front of the sequence is one `add8`. -/
theorem sum8_cons (b : Byte) (s : List Byte) : sum8 (b :: s) = add8 b (sum8 s) := by
  apply BitVec.eq_of_toNat_eq
  rw [sum8_toNat, add8_toNat, sum8_toNat]
  simp

@[simp] theorem accLoaded_eq : accLoaded = 0x02 := rfl

@[simp] theorem accAdded_eq (a b : Byte) : accAdded a b = add8 a b := rfl

theorem chkOk_iff (a b : Byte) : chkOk a b = true ↔ a = b := by simp [chkOk]

theorem lengthLegal_iff (l : Byte) : lengthLegal l = true ↔ 3 ≤ l.toNat ∧ l.toNat ≤ 64 := by
  rw [lengthLegal, Bool.and_eq_true, decide_eq_true_iff, decide_eq_true_iff]
  exact Iff.rfl

/-- A byte that the sequence has is no free value. -/
theorem byteAt_of_getElem? {f : List Byte} {i : Nat} {b : Byte} (h : f[i]? = some b) : byteAt f i = b := by
  simp [byteAt, h]

/-- Within the sequence `byteAt` is its byte. -/
theorem getElem?_byteAt {f : List Byte} {i : Nat} (h : i < f.length) : f[i]? = some (byteAt f i) := by
  simp [byteAt, List.getElem?_eq_getElem h]

@[simp] theorem symData_symOfByte (b : Byte) : symData (symOfByte b) = b := by
  apply BitVec.eq_of_toNat_eq
  simp [symData, symOfByte]

@[simp] theorem symIsTimeout_symOfByte (b : Byte) : symIsTimeout (symOfByte b) = false := by
  simp [symIsTimeout, symOfByte]

@[simp] theorem symIsTimeout_symTimeout : symIsTimeout symTimeout = true := by decide

end Sys2Proof.Machine
end

