-- ==== Sys2Proof/Laws/Decode.lean ====
section
/-! SUPPORT. The decoder by parser state, and what a symbol's mask tests say of its two parts. -/

namespace Sys2Proof

open Sys2Proof.Machine

theorem decode_sym_hunt {v : View} (x : SymbolWord) (h : v.st = .hunt) : decode v (.sym x) = .ok (decodeHunt x) := by
  simp [decode, decodeSym, h]

theorem decode_sym_len {v : View} (x : SymbolWord) (h : v.st = .len) : decode v (.sym x) = .ok (decodeLen x) := by
  simp [decode, decodeSym, h]

theorem decode_sym_body {v : View} (x : SymbolWord) (h : v.st = .body) : decode v (.sym x) = decodeBody v x := by
  simp [decode, decodeSym, h]

theorem decode_sym_stopped {v : View} (x : SymbolWord) (h : v.st = .stopped) :
    decode v (.sym x) = .ok .stoppedHold := by
  simp [decode, decodeSym, h]

/-- A symbol that is no Timeout is the symbol of its data bits. -/
theorem symbol_of_byte : ∀ x : SymbolWord, symIsTimeout x = false → x = symOfByte (symData x) := by
  decide

/-- A Timeout is a Timeout whatever its data bits are (I4). -/
theorem symIsTimeout_ignores_data : ∀ d : Byte, symIsTimeout (0x100 ||| symOfByte d) = true := by
  decide

/-- The mask tests of the table on a symbol with bit 8 clear. -/
theorem masks_of_byte_symbol : ∀ x : SymbolWord, symIsTimeout x = false →
    x &&& 0x100 = 0x000 ∧ (x &&& 0x1FF = 0x002 ↔ symData x = 0x02) ∧
    (x &&& 0x1FF = 0x00A ↔ symData x = 0x0A) ∧ (x &&& 0x1FF = 0x00D ↔ symData x = 0x0D) := by
  decide

/-- The mask tests of the table on a symbol with bit 8 set. -/
theorem masks_of_timeout_symbol : ∀ x : SymbolWord, symIsTimeout x = true →
    x &&& 0x100 = 0x100 ∧ x &&& 0x1FF ≠ 0x002 ∧ x &&& 0x1FF ≠ 0x00A ∧ x &&& 0x1FF ≠ 0x00D := by
  decide

end Sys2Proof
end

