-- ==== Sys2Proof/Laws/Memory.lean ====
section
/-! SUPPORT. The frame buffer: reading after writing, and the canonical form, which every operation keeps. -/

namespace Sys2Proof.Machine

@[simp] theorem Memory.read_nil (x : Nat) : Memory.read [] x = none := rfl

theorem Memory.read_cons (a : Nat) (b : Byte) (m : Memory) (x : Nat) :
    Memory.read ((a, b) :: m) x = if a = x then some b else Memory.read m x := rfl

@[simp] theorem Memory.read_write_same (m : Memory) (a : Nat) (v : Byte) :
    Memory.read (Memory.write m a v) a = some v := by
  induction m with
  | nil => simp [Memory.write, Memory.read]
  | cons c m ih =>
    obtain ⟨x, b⟩ := c
    unfold Memory.write
    split
    · simp [Memory.read]
    · split
      · next h => simp [Memory.read, h]
      · next h => simp [Memory.read, ih, Ne.symm h]

theorem Memory.read_write_other (m : Memory) (a : Nat) (v : Byte) {x : Nat} (hx : x ≠ a) :
    Memory.read (Memory.write m a v) x = Memory.read m x := by
  induction m with
  | nil => simp [Memory.write, Memory.read, Ne.symm hx]
  | cons c m ih =>
    obtain ⟨y, b⟩ := c
    unfold Memory.write
    split
    · simp [Memory.read, Ne.symm hx]
    · split
      · next h => subst h; simp [Memory.read, Ne.symm hx]
      · simp [Memory.read, ih]

/-- Reading any location after a write. -/
theorem Memory.read_write (m : Memory) (a : Nat) (v : Byte) (x : Nat) :
    Memory.read (Memory.write m a v) x = if x = a then some v else Memory.read m x := by
  by_cases h : x = a
  · subst h; simp
  · simp [h, Memory.read_write_other m a v h]

@[simp] theorem Memory.wf_nil : Memory.wf [] = true := rfl

/-- A write above `low` keeps the canonical form above `low`. -/
theorem Memory.risingFrom_write (m : Memory) (low a : Nat) (v : Byte)
    (hm : Memory.risingFrom low m = true) (hl : low ≤ a) (ha : a < Config.frameMax) :
    Memory.risingFrom low (Memory.write m a v) = true := by
  induction m generalizing low with
  | nil => simp [Memory.write, Memory.risingFrom, hl, ha]
  | cons c m ih =>
    obtain ⟨x, b⟩ := c
    simp only [Memory.risingFrom, Bool.and_eq_true, decide_eq_true_eq] at hm
    obtain ⟨⟨hx, hx'⟩, hm⟩ := hm
    unfold Memory.write
    split
    · next h => simp [Memory.risingFrom, hl, ha, hx', hm, Nat.succ_le_of_lt h]
    · split
      · next h => subst h; simp [Memory.risingFrom, hl, ha, hm]
      · next h1 h2 =>
        have h3 : x + 1 ≤ a := by omega
        simp [Memory.risingFrom, hx, hx', ih (x + 1) hm h3]

/-- Every store within the buffer keeps the canonical form. -/
theorem Memory.wf_write (m : Memory) (a : Nat) (v : Byte) (hm : Memory.wf m = true) (ha : a < Config.frameMax) :
    Memory.wf (Memory.write m a v) = true :=
  Memory.risingFrom_write m 0 a v hm (Nat.zero_le a) ha

/-- A written location gives its byte; no free value is involved. -/
theorem Memory.byte_of_read {m : Memory} {a : Nat} {b : Byte} (h : Memory.read m a = some b) :
    Memory.byte m a = b := by simp [Memory.byte, h]

@[simp] theorem Memory.byte_write_same (m : Memory) (a : Nat) (v : Byte) :
    Memory.byte (Memory.write m a v) a = v := by simp [Memory.byte]

theorem Memory.byte_write_other (m : Memory) (a : Nat) (v : Byte) {x : Nat} (hx : x ≠ a) :
    Memory.byte (Memory.write m a v) x = Memory.byte m x := by
  simp [Memory.byte, Memory.read_write_other m a v hx]

@[simp] theorem Memory.frame_zero (m : Memory) : Memory.frame m 0 = [] := rfl

@[simp] theorem Memory.frame_length (m : Memory) (n : Nat) : (Memory.frame m n).length = n := by
  simp [Memory.frame]

theorem Memory.frame_succ (m : Memory) (n : Nat) :
    Memory.frame m (n + 1) = Memory.frame m n ++ [Memory.byte m n] := by
  simp [Memory.frame, List.range_succ]

/-- A store at or above `n` leaves the first `n` bytes as they were. -/
theorem Memory.frame_write_above (m : Memory) (n a : Nat) (v : Byte) (h : n ≤ a) :
    Memory.frame (Memory.write m a v) n = Memory.frame m n := by
  unfold Memory.frame
  refine List.map_congr_left fun x hx => ?_
  have : x < n := List.mem_range.mp hx
  exact Memory.byte_write_other m a v (by omega)

/-- A store at `n` extends the first `n` bytes by the byte stored. -/
theorem Memory.frame_write_next (m : Memory) (n : Nat) (v : Byte) :
    Memory.frame (Memory.write m n v) (n + 1) = Memory.frame m n ++ [v] := by
  rw [Memory.frame_succ, Memory.frame_write_above m n n v (Nat.le_refl n), Memory.byte_write_same]

end Sys2Proof.Machine
end

