-- ==== Sys2Proof/Laws/State.lean ====
section
/-! SUPPORT. What each update of the state does to each field: one lemma per field per update. -/

namespace Sys2Proof.Machine

@[simp] theorem State.low_st (s : State) : s.low.st = s.st := rfl
@[simp] theorem State.low_idx (s : State) : s.low.idx = s.idx := rfl
@[simp] theorem State.low_lenR (s : State) : s.low.lenR = s.lenR := rfl
@[simp] theorem State.low_acc (s : State) : s.low.acc = s.acc := rfl
@[simp] theorem State.low_buf (s : State) : s.low.buf = s.buf := rfl
@[simp] theorem State.low_txAcc (s : State) : s.low.txAcc = s.txAcc := rfl
@[simp] theorem State.low_rx (s : State) : s.low.rx = s.rx := rfl
@[simp] theorem State.low_inputs (s : State) : s.low.inputs = s.inputs := rfl
@[simp] theorem State.low_out (s : State) : s.low.out = [] := rfl
@[simp] theorem State.low_res (s : State) : s.low.res = none := rfl
@[simp] theorem State.low_tx (s : State) : s.low.tx = [] := rfl

@[simp] theorem State.consume_st (s : State) : s.consume.st = s.st := rfl
@[simp] theorem State.consume_idx (s : State) : s.consume.idx = s.idx := rfl
@[simp] theorem State.consume_lenR (s : State) : s.consume.lenR = s.lenR := rfl
@[simp] theorem State.consume_acc (s : State) : s.consume.acc = s.acc := rfl
@[simp] theorem State.consume_buf (s : State) : s.consume.buf = s.buf := rfl
@[simp] theorem State.consume_txAcc (s : State) : s.consume.txAcc = s.txAcc := rfl
@[simp] theorem State.consume_rx (s : State) : s.consume.rx = s.rx.tail := rfl
@[simp] theorem State.consume_inputs (s : State) : s.consume.inputs = s.inputs := rfl
@[simp] theorem State.consume_out (s : State) : s.consume.out = s.out := rfl
@[simp] theorem State.consume_res (s : State) : s.consume.res = s.res := rfl
@[simp] theorem State.consume_tx (s : State) : s.consume.tx = s.tx := rfl

@[simp] theorem State.emit_st (o : Output) (s : State) : (s.emit o).st = s.st := rfl
@[simp] theorem State.emit_idx (o : Output) (s : State) : (s.emit o).idx = s.idx := rfl
@[simp] theorem State.emit_lenR (o : Output) (s : State) : (s.emit o).lenR = s.lenR := rfl
@[simp] theorem State.emit_acc (o : Output) (s : State) : (s.emit o).acc = s.acc := rfl
@[simp] theorem State.emit_buf (o : Output) (s : State) : (s.emit o).buf = s.buf := rfl
@[simp] theorem State.emit_txAcc (o : Output) (s : State) : (s.emit o).txAcc = s.txAcc := rfl
@[simp] theorem State.emit_rx (o : Output) (s : State) : (s.emit o).rx = s.rx := rfl
@[simp] theorem State.emit_inputs (o : Output) (s : State) : (s.emit o).inputs = s.inputs := rfl
@[simp] theorem State.emit_out (o : Output) (s : State) : (s.emit o).out = s.out ++ [o] := rfl
@[simp] theorem State.emit_res (o : Output) (s : State) : (s.emit o).res = s.res := rfl
@[simp] theorem State.emit_tx (o : Output) (s : State) : (s.emit o).tx = s.tx := rfl

@[simp] theorem State.answer_st (r : FnResult) (s : State) : (s.answer r).st = s.st := rfl
@[simp] theorem State.answer_idx (r : FnResult) (s : State) : (s.answer r).idx = s.idx := rfl
@[simp] theorem State.answer_lenR (r : FnResult) (s : State) : (s.answer r).lenR = s.lenR := rfl
@[simp] theorem State.answer_acc (r : FnResult) (s : State) : (s.answer r).acc = s.acc := rfl
@[simp] theorem State.answer_buf (r : FnResult) (s : State) : (s.answer r).buf = s.buf := rfl
@[simp] theorem State.answer_txAcc (r : FnResult) (s : State) : (s.answer r).txAcc = s.txAcc := rfl
@[simp] theorem State.answer_rx (r : FnResult) (s : State) : (s.answer r).rx = s.rx := rfl
@[simp] theorem State.answer_inputs (r : FnResult) (s : State) : (s.answer r).inputs = s.inputs := rfl
@[simp] theorem State.answer_out (r : FnResult) (s : State) : (s.answer r).out = s.out := rfl
@[simp] theorem State.answer_res (r : FnResult) (s : State) : (s.answer r).res = some r := rfl
@[simp] theorem State.answer_tx (r : FnResult) (s : State) : (s.answer r).tx = s.tx := rfl

@[simp] theorem State.enterHunt_st (s : State) : s.enterHunt.st = .hunt := rfl
@[simp] theorem State.enterHunt_idx (s : State) : s.enterHunt.idx = 0 := rfl
@[simp] theorem State.enterHunt_lenR (s : State) : s.enterHunt.lenR = 0 := rfl
@[simp] theorem State.enterHunt_acc (s : State) : s.enterHunt.acc = 0x00 := rfl
@[simp] theorem State.enterHunt_buf (s : State) : s.enterHunt.buf = s.buf := rfl
@[simp] theorem State.enterHunt_txAcc (s : State) : s.enterHunt.txAcc = s.txAcc := rfl
@[simp] theorem State.enterHunt_rx (s : State) : s.enterHunt.rx = s.rx := rfl
@[simp] theorem State.enterHunt_inputs (s : State) : s.enterHunt.inputs = s.inputs := rfl
@[simp] theorem State.enterHunt_out (s : State) : s.enterHunt.out = s.out := rfl
@[simp] theorem State.enterHunt_res (s : State) : s.enterHunt.res = s.res := rfl
@[simp] theorem State.enterHunt_tx (s : State) : s.enterHunt.tx = s.tx := rfl

@[simp] theorem State.raise_st (d : Discard) (s : State) : (s.raise d).st = .hunt := rfl
@[simp] theorem State.raise_idx (d : Discard) (s : State) : (s.raise d).idx = 0 := rfl
@[simp] theorem State.raise_lenR (d : Discard) (s : State) : (s.raise d).lenR = 0 := rfl
@[simp] theorem State.raise_acc (d : Discard) (s : State) : (s.raise d).acc = 0x00 := rfl
@[simp] theorem State.raise_buf (d : Discard) (s : State) : (s.raise d).buf = s.buf := rfl
@[simp] theorem State.raise_txAcc (d : Discard) (s : State) : (s.raise d).txAcc = s.txAcc := rfl
@[simp] theorem State.raise_rx (d : Discard) (s : State) : (s.raise d).rx = s.rx := rfl
@[simp] theorem State.raise_inputs (d : Discard) (s : State) : (s.raise d).inputs = s.inputs := rfl
@[simp] theorem State.raise_out (d : Discard) (s : State) : (s.raise d).out = s.out ++ [.discard d] := rfl
@[simp] theorem State.raise_res (d : Discard) (s : State) : (s.raise d).res = s.res := rfl
@[simp] theorem State.raise_tx (d : Discard) (s : State) : (s.raise d).tx = s.tx := rfl

@[simp] theorem State.handOff_st (f : List Byte) (s : State) : (s.handOff f).st = s.st := rfl
@[simp] theorem State.handOff_idx (f : List Byte) (s : State) : (s.handOff f).idx = s.idx := rfl
@[simp] theorem State.handOff_lenR (f : List Byte) (s : State) : (s.handOff f).lenR = s.lenR := rfl
@[simp] theorem State.handOff_acc (f : List Byte) (s : State) : (s.handOff f).acc = s.acc := rfl
@[simp] theorem State.handOff_buf (f : List Byte) (s : State) : (s.handOff f).buf = s.buf := rfl
@[simp] theorem State.handOff_txAcc (f : List Byte) (s : State) : (s.handOff f).txAcc = s.txAcc := rfl
@[simp] theorem State.handOff_rx (f : List Byte) (s : State) : (s.handOff f).rx = s.rx := rfl
@[simp] theorem State.handOff_inputs (f : List Byte) (s : State) : (s.handOff f).inputs = s.inputs := rfl
@[simp] theorem State.handOff_out (f : List Byte) (s : State) : (s.handOff f).out = s.out ++ handoffOutputs s.drive.qReady f := rfl
@[simp] theorem State.handOff_res (f : List Byte) (s : State) : (s.handOff f).res = s.res := rfl
@[simp] theorem State.handOff_tx (f : List Byte) (s : State) : (s.handOff f).tx = s.tx := rfl

@[simp] theorem State.answeredBy_st (t u : State) : (t.answeredBy u).st = t.st := rfl
@[simp] theorem State.answeredBy_idx (t u : State) : (t.answeredBy u).idx = t.idx := rfl
@[simp] theorem State.answeredBy_lenR (t u : State) : (t.answeredBy u).lenR = t.lenR := rfl
@[simp] theorem State.answeredBy_acc (t u : State) : (t.answeredBy u).acc = t.acc := rfl
@[simp] theorem State.answeredBy_buf (t u : State) : (t.answeredBy u).buf = t.buf := rfl
@[simp] theorem State.answeredBy_txAcc (t u : State) : (t.answeredBy u).txAcc = u.txAcc := rfl
@[simp] theorem State.answeredBy_rx (t u : State) : (t.answeredBy u).rx = t.rx := rfl
@[simp] theorem State.answeredBy_inputs (t u : State) : (t.answeredBy u).inputs = t.inputs := rfl
@[simp] theorem State.answeredBy_out (t u : State) : (t.answeredBy u).out = t.out := rfl
@[simp] theorem State.answeredBy_res (t u : State) : (t.answeredBy u).res = u.res := rfl
@[simp] theorem State.answeredBy_tx (t u : State) : (t.answeredBy u).tx = u.tx := rfl

@[simp] theorem State.advance_st (s : State) : s.advance.st = s.st := rfl
@[simp] theorem State.advance_idx (s : State) : s.advance.idx = s.idx := rfl
@[simp] theorem State.advance_lenR (s : State) : s.advance.lenR = s.lenR := rfl
@[simp] theorem State.advance_acc (s : State) : s.advance.acc = s.acc := rfl
@[simp] theorem State.advance_buf (s : State) : s.advance.buf = s.buf := rfl
@[simp] theorem State.advance_txAcc (s : State) : s.advance.txAcc = s.txAcc := rfl
@[simp] theorem State.advance_rx (s : State) : s.advance.rx = s.rx := rfl
@[simp] theorem State.advance_inputs (s : State) : s.advance.inputs = s.inputs.tail := rfl
@[simp] theorem State.advance_out (s : State) : s.advance.out = s.out := rfl
@[simp] theorem State.advance_res (s : State) : s.advance.res = s.res := rfl
@[simp] theorem State.advance_tx (s : State) : s.advance.tx = s.tx := rfl

end Sys2Proof.Machine
end

