-- ==== Sys2Proof/Laws/Ops.lean ====
section
/-! SUPPORT. What each shared operation can do, said once. -/

namespace Sys2Proof.Machine

/-- A store within the buffer goes on with the byte written. -/
theorem storeByte_within {a : Nat} {b : Byte} {s : State} {k : State → Result} (h : a ≤ 64) :
    storeByte a b s k = k { s with buf := Memory.write s.buf a b } := by
  simp [storeByte, Config.frameMax, Nat.lt_succ_of_le h]

/-- A store outside the buffer faults. -/
theorem storeByte_outside {a : Nat} {b : Byte} {s : State} {k : State → Result} (h : 65 ≤ a) :
    storeByte a b s k = .fault (.bufferAddress a) := by
  have : ¬ a < 65 := by omega
  simp [storeByte, Config.frameMax, this]

/-- A store that answers a next state was within the buffer. -/
theorem storeByte_next {a : Nat} {b : Byte} {s t : State} {k : State → Result} (h : storeByte a b s k = .next t) :
    a ≤ 64 ∧ k { s with buf := Memory.write s.buf a b } = .next t := by
  unfold storeByte at h
  split at h
  · next ha => exact ⟨Nat.le_of_lt_succ ha, h⟩
  · cases h

/-- The hand-off of a frame of a class with a queue. -/
theorem handoffOutputs_queued {q : BitVec 3} {f : List Byte} {n : Nat} (h : queueOf (classifyFrame f) = some n) :
    handoffOutputs q f =
      [.classified (classifyFrame f) f (tripleOf f),
        if q.getLsbD n then .push (classifyFrame f) f else .discard (.qFull (classifyFrame f) f)] := by
  by_cases hq : q.getLsbD n = true <;> simp [handoffOutputs, h, hq]

/-- The hand-off of a frame of class Ignored. -/
theorem handoffOutputs_ignored {q : BitVec 3} {f : List Byte} (h : queueOf (classifyFrame f) = none) :
    handoffOutputs q f = [.classified (classifyFrame f) f (tripleOf f)] := by
  simp [handoffOutputs, h]

/-- The hand-off's Outputs, in one of its three shapes (R122 to R125). -/
theorem handoffOutputs_cases (q : BitVec 3) (f : List Byte) :
    (classifyFrame f = .ignored ∧ handoffOutputs q f = [.classified .ignored f (tripleOf f)]) ∨
    (classifyFrame f ≠ .ignored ∧
      handoffOutputs q f = [.classified (classifyFrame f) f (tripleOf f), .push (classifyFrame f) f]) ∨
    (classifyFrame f ≠ .ignored ∧
      handoffOutputs q f =
        [.classified (classifyFrame f) f (tripleOf f), .discard (.qFull (classifyFrame f) f)]) := by
  cases h : classifyFrame f with
  | ignored =>
    refine .inl ⟨rfl, ?_⟩
    rw [handoffOutputs_ignored (by rw [h]; rfl), h]
  | ack =>
    refine .inr ?_
    rw [handoffOutputs_queued (n := 0) (by rw [h]; rfl), h]
    by_cases hq : q.getLsbD 0 = true <;> simp [hq]
  | event =>
    refine .inr ?_
    rw [handoffOutputs_queued (n := 1) (by rw [h]; rfl), h]
    by_cases hq : q.getLsbD 1 = true <;> simp [hq]
  | getReply =>
    refine .inr ?_
    rw [handoffOutputs_queued (n := 2) (by rw [h]; rfl), h]
    by_cases hq : q.getLsbD 2 = true <;> simp [hq]

/-- Two outcomes beside one another give a next state exactly if both do. -/
theorem beside_eq_next {p c : Result} {t : State} (h : Result.beside p c = .next t) :
    ∃ u v, p = .next u ∧ c = .next v ∧ t = u.answeredBy v := by
  cases p <;> cases c <;> cases h
  exact ⟨_, _, rfl, rfl, rfl⟩

@[simp] theorem mapNext_next (g : State → State) (s : State) :
    Result.mapNext g (.next s) = .next (g s) := rfl

/-- What an outcome mapped to a next state was. -/
theorem mapNext_eq_next {g : State → State} {r : Result} {t : State} (h : Result.mapNext g r = .next t) :
    ∃ u, r = .next u ∧ t = g u := by
  cases r with
  | next u => exact ⟨u, rfl, by cases h; rfl⟩
  | fault r => cases h
  | refused r => cases h

end Sys2Proof.Machine
end

