-- ==== Sys2Proof/Laws/Exec.lean ====
section
/-! SUPPORT. The inversion of the meanings that can stop: what the next state is, if there is one. -/

namespace Sys2Proof.Machine

theorem execHuntSof_next {s t : State} (h : execHuntSof s = .next t) :
    t = { s.low.consume with
      buf := Memory.write s.buf 0 Config.start, acc := accLoaded, idx := 1, st := .len } := by
  obtain ⟨_, h⟩ := storeByte_next h
  cases h
  rfl

theorem execLenOk_next {l : Byte} {s t : State} (h : execLenOk l s = .next t) :
    t = { s.low.consume with
      buf := Memory.write s.buf 1 l, lenR := lengthIndex l, acc := accAdded s.acc l, idx := 2, st := .body } := by
  obtain ⟨_, h⟩ := storeByte_next h
  cases h
  rfl

theorem execBodyByte_next {b : Byte} {s t : State} (h : execBodyByte b s = .next t) :
    s.idx.toNat ≤ 64 ∧
    t = { s.low.consume with
      buf := Memory.write s.buf s.idx.toNat b, acc := accAdded s.acc b, idx := s.idx + 1 } := by
  obtain ⟨ha, h⟩ := storeByte_next h
  cases h
  exact ⟨ha, rfl⟩

theorem execBodyLastOk_next {b : Byte} {s t : State} (h : execBodyLastOk b s = .next t) :
    s.lenR.toNat ≤ 64 ∧
    t = { s.low.consume.enterHunt with
      buf := Memory.write s.buf s.lenR.toNat b,
      out := handoffOutputs s.drive.qReady (Memory.frame s.buf s.lenR.toNat ++ [b]) } := by
  obtain ⟨ha, h⟩ := storeByte_next h
  cases h
  exact ⟨ha, rfl⟩

end Sys2Proof.Machine
end

