-- ==== Sys2Proof/Laws/Step.lean ====
section
/-! SUPPORT. The inversion of a step: what its two parts were if it answers a next state. -/

namespace Sys2Proof.Machine

/-- A parser's part that answers a next state either had no Event or ran the operation its word decodes to. -/
theorem parserPart_cases {s t : State} (h : parserPart s = .next t) :
    (fetch s = none ∧ t = s.low) ∨
    ∃ w i, fetch s = some w ∧ decode s.view w = .ok i ∧ exec i s = .next t := by
  unfold parserPart at h
  split at h
  · next hf => cases h; exact .inl ⟨hf, rfl⟩
  · next w hf =>
    split at h
    · cases h
    · next i hd => exact .inr ⟨w, i, hf, hd, h⟩

/-- Every request decodes to an operation that answers a next state, which differs from the state with low strobes by the
answer, the composer's accumulator and the bytes sent only. -/
theorem call_answers (s : State) (c : Call) :
    ∃ i u, decode s.view (callWord c) = .ok i ∧ exec i s = .next u ∧ u = s.low.answeredBy u ∧ u.res ≠ none := by
  cases c with
  | command c =>
    suffices h : ∃ u, exec (decodeCommand c) s = .next u ∧ u = s.low.answeredBy u ∧ u.res ≠ none from
      h.elim fun u h => ⟨_, u, rfl, h⟩
    simp only [decodeCommand]
    split_ifs <;> exact ⟨_, rfl, rfl, nofun⟩
  | compose c p =>
    refine ⟨.compose c p, ?_⟩
    simp only [exec, execCompose]
    split <;> exact ⟨_, rfl, rfl, rfl, nofun⟩
  | parseState f =>
    refine ⟨.parseState f, ?_⟩
    simp only [exec, execParseState]
    split <;> exact ⟨_, rfl, rfl, rfl, nofun⟩
  | checksum s => exact ⟨_, _, rfl, rfl, rfl, nofun⟩
  | valid f => exact ⟨_, _, rfl, rfl, rfl, nofun⟩
  | classify f => exact ⟨_, _, rfl, rfl, rfl, nofun⟩
  | triple f => exact ⟨_, _, rfl, rfl, rfl, nofun⟩

/-- The caller's part always answers a next state; without a request it is the state with low strobes. -/
theorem callerPart_next (s : State) :
    ∃ u, callerPart s = .next u ∧ u = s.low.answeredBy u ∧ (s.drive.call = none → u = s.low) := by
  unfold callerPart
  cases hc : s.drive.call with
  | none => exact ⟨_, rfl, rfl, fun _ => rfl⟩
  | some c =>
    obtain ⟨i, u, hd, he, hu, -⟩ := call_answers s c
    exact ⟨u, by simp only [hd, he], hu, nofun⟩

/-- A step that answers a next state is the parser's part with the caller's answer, the input passed. -/
theorem step_parts {s t : State} (h : step s = .next t) :
    ∃ p u, parserPart s = .next p ∧ callerPart s = .next u ∧ t = (p.answeredBy u).advance := by
  obtain ⟨v, hv, rfl⟩ := mapNext_eq_next h
  obtain ⟨p, u, hp, hu, rfl⟩ := beside_eq_next hv
  exact ⟨p, u, hp, hu, rfl⟩

/-- A step is the parser's part with the caller's answer: it answers a next state if the parser's part does. -/
theorem step_of_parserPart {s p : State} (h : parserPart s = .next p) :
    ∃ u, callerPart s = .next u ∧ step s = .next (p.answeredBy u).advance := by
  obtain ⟨u, hu, -⟩ := callerPart_next s
  exact ⟨u, hu, by rw [step, h, hu]; rfl⟩

/-- A step that answers a next state either had no Event or ran the operation its word decodes to, and answered a caller
if one asked. -/
theorem step_cases {s t : State} (h : step s = .next t) :
    ∃ u, callerPart s = .next u ∧
      ((fetch s = none ∧ t = (s.low.answeredBy u).advance) ∨
      ∃ w i p, fetch s = some w ∧ decode s.view w = .ok i ∧ exec i s = .next p ∧ t = (p.answeredBy u).advance) := by
  obtain ⟨p, u, hp, hu, rfl⟩ := step_parts h
  refine ⟨u, hu, ?_⟩
  rcases parserPart_cases hp with ⟨hf, rfl⟩ | ⟨w, i, hf, hd, he⟩
  · exact .inl ⟨hf, rfl⟩
  · exact .inr ⟨w, i, p, hf, hd, he, rfl⟩

end Sys2Proof.Machine
end

