-- ==== Sys2Proof/Laws/Fetch.lean ====
section
/-! SUPPORT. What a step can fetch, and in which states the operation it fetches applies. -/

namespace Sys2Proof.Machine

/-- A fetched word is a control pair that is not 00, or an offered symbol. -/
theorem fetch_cases {s : State} {w : OpWord} (h : fetch s = some w) :
    (∃ p : BitVec 2, w = .ctrl p ∧ p ≠ 0) ∨ (∃ x xs, w = .sym x ∧ s.rx = x :: xs) := by
  unfold fetch at h
  split at h
  · next hc =>
    cases h
    refine .inl ⟨_, rfl, ?_⟩
    revert hc
    cases s.drive.rst <;> cases s.drive.stop <;> decide
  · split at h
    · obtain ⟨x, hx, rfl⟩ := Option.map_eq_some_iff.1 h
      cases hr : s.rx with
      | nil => rw [hr] at hx; cases hx
      | cons y ys => rw [hr] at hx; cases hx; exact .inr ⟨_, _, rfl, rfl⟩
    · cases h

/-- The operations that an Event can select: not the accumulator's micro-operations and not the hand-off, which are parts of
other steps, nor what callers ask for; and a length byte on the side of the bounds that its row says. -/
def fetchable : Instr → Bool
  | .accLoad | .accAdd _ | .accCmp _ | .handoff _ => false
  | .lenOk l => lengthLegal l
  | .lenBad l => !lengthLegal l
  | .huntSof | .huntNoiseLf | .huntNoiseCr | .huntNoise _ | .huntTimeout | .lenTimeout => true
  | .bodyByte _ | .bodyLastOk _ | .bodyLastBad _ | .bodyTimeout | .stoppedHold | .reset | .stop => true
  | .cmdAck0 | .cmdAck1 | .cmdGetReply | .cmdLog | .cmdEvent | .cmdOther _ => false
  | .checksum _ | .compose _ _ | .parseState _ | .valid _ | .classify _ | .triple _ => false

/-- A fetched operation is one that an Event can select, and its row applies in the state. -/
theorem selectedIn_of_fetch {s : State} {w : OpWord} {i : Instr} (hf : fetch s = some w)
    (hd : decode s.view w = .ok i) : i.selectedIn s.view = true ∧ fetchable i = true := by
  have key := fetch_cases hf
  generalize s.view = v at *
  rcases key with ⟨p, rfl, -⟩ | ⟨x, xs, rfl, -⟩
  · simp only [decode, decodeCtrl] at hd
    split_ifs at hd with a b c <;> cases hd <;> simp [Instr.selectedIn, fetchable, *]
  · obtain ⟨st, a, b, c⟩ := v
    cases st <;> simp only [decode, decodeSym, decodeHunt, decodeLen, decodeBody] at hd <;>
      (try split_ifs at hd) <;> cases hd <;> simp_all [Instr.selectedIn, fetchable]

/-- What an Event selects answers no caller and does not touch the composer. -/
theorem exec_fetchable {i : Instr} {s t : State} (hi : fetchable i = true) (h : exec i s = .next t) :
    t.txAcc = s.txAcc ∧ t.res = none ∧ t.tx = [] ∧ t.inputs = s.inputs := by
  cases i
  case huntSof => rw [execHuntSof_next h]; exact ⟨rfl, rfl, rfl, rfl⟩
  case lenOk l => rw [execLenOk_next h]; exact ⟨rfl, rfl, rfl, rfl⟩
  case bodyByte b => rw [(execBodyByte_next h).2]; exact ⟨rfl, rfl, rfl, rfl⟩
  case bodyLastOk b => rw [(execBodyLastOk_next h).2]; exact ⟨rfl, rfl, rfl, rfl⟩
  all_goals first | cases hi; done | (cases h; exact ⟨rfl, rfl, rfl, rfl⟩)

end Sys2Proof.Machine
end

