-- ==== Sys2Proof/Laws/PerInstr.lean ====
section
/-! SUPPORT. The families of statements made per instruction. -/

namespace Sys2Proof.Laws

/-- The word of an operation of format SYM matches the `match` and `mask` of its row of spec/opcode_table.json, and its
data bits are the row's operand (30_encoding.md R81). -/
def EncodingMatchesRow.Statement (i : Instr) : Prop :=
  ∀ m k : SymbolWord, symRow i = some (m, k) →
    ∃ x : SymbolWord, encode i = .sym x ∧ x &&& k = m ∧
      (symOperand i = none ∨ symOperand i = some (Machine.symData x))

/-- A byte symbol has bit 8 clear and its data bits are the byte. -/
theorem symOfByte_matches (b : Byte) :
    Machine.symOfByte b &&& 0x100 = 0x000 ∧ Machine.symData (Machine.symOfByte b) = b := by
  revert b
  decide

theorem EncodingMatchesRow.huntSof : EncodingMatchesRow.Statement .huntSof := by
  intro m k h; cases h; exact ⟨_, rfl, by decide, .inl rfl⟩

theorem EncodingMatchesRow.huntNoiseLf : EncodingMatchesRow.Statement .huntNoiseLf := by
  intro m k h; cases h; exact ⟨_, rfl, by decide, .inl rfl⟩

theorem EncodingMatchesRow.huntNoiseCr : EncodingMatchesRow.Statement .huntNoiseCr := by
  intro m k h; cases h; exact ⟨_, rfl, by decide, .inl rfl⟩

theorem EncodingMatchesRow.huntNoise (b : Byte) : EncodingMatchesRow.Statement (.huntNoise b) := by
  intro m k h; cases h
  exact ⟨_, rfl, (symOfByte_matches b).1, .inr (congrArg some (symOfByte_matches b).2.symm)⟩

theorem EncodingMatchesRow.huntTimeout : EncodingMatchesRow.Statement .huntTimeout := by
  intro m k h; cases h; exact ⟨_, rfl, by decide, .inl rfl⟩

theorem EncodingMatchesRow.lenOk (l : Byte) : EncodingMatchesRow.Statement (.lenOk l) := by
  intro m k h; cases h
  exact ⟨_, rfl, (symOfByte_matches l).1, .inr (congrArg some (symOfByte_matches l).2.symm)⟩

theorem EncodingMatchesRow.lenBad (l : Byte) : EncodingMatchesRow.Statement (.lenBad l) := by
  intro m k h; cases h
  exact ⟨_, rfl, (symOfByte_matches l).1, .inr (congrArg some (symOfByte_matches l).2.symm)⟩

theorem EncodingMatchesRow.lenTimeout : EncodingMatchesRow.Statement .lenTimeout := by
  intro m k h; cases h; exact ⟨_, rfl, by decide, .inl rfl⟩

theorem EncodingMatchesRow.bodyByte (b : Byte) : EncodingMatchesRow.Statement (.bodyByte b) := by
  intro m k h; cases h
  exact ⟨_, rfl, (symOfByte_matches b).1, .inr (congrArg some (symOfByte_matches b).2.symm)⟩

theorem EncodingMatchesRow.bodyLastOk (b : Byte) : EncodingMatchesRow.Statement (.bodyLastOk b) := by
  intro m k h; cases h
  exact ⟨_, rfl, (symOfByte_matches b).1, .inr (congrArg some (symOfByte_matches b).2.symm)⟩

theorem EncodingMatchesRow.bodyLastBad (b : Byte) : EncodingMatchesRow.Statement (.bodyLastBad b) := by
  intro m k h; cases h
  exact ⟨_, rfl, (symOfByte_matches b).1, .inr (congrArg some (symOfByte_matches b).2.symm)⟩

theorem EncodingMatchesRow.bodyTimeout : EncodingMatchesRow.Statement .bodyTimeout := by
  intro m k h; cases h; exact ⟨_, rfl, by decide, .inl rfl⟩

theorem EncodingMatchesRow.stoppedHold : EncodingMatchesRow.Statement .stoppedHold := by
  intro m k h; cases h; exact ⟨_, rfl, by decide, .inl rfl⟩

theorem EncodingMatchesRow.reset : EncodingMatchesRow.Statement .reset := by
  intro m k h; cases h

theorem EncodingMatchesRow.stop : EncodingMatchesRow.Statement .stop := by
  intro m k h; cases h

theorem EncodingMatchesRow.cmdAck0 : EncodingMatchesRow.Statement .cmdAck0 := by
  intro m k h; cases h

theorem EncodingMatchesRow.cmdAck1 : EncodingMatchesRow.Statement .cmdAck1 := by
  intro m k h; cases h

theorem EncodingMatchesRow.cmdGetReply : EncodingMatchesRow.Statement .cmdGetReply := by
  intro m k h; cases h

theorem EncodingMatchesRow.cmdLog : EncodingMatchesRow.Statement .cmdLog := by
  intro m k h; cases h

theorem EncodingMatchesRow.cmdEvent : EncodingMatchesRow.Statement .cmdEvent := by
  intro m k h; cases h

theorem EncodingMatchesRow.cmdOther (c : Byte) : EncodingMatchesRow.Statement (.cmdOther c) := by
  intro m k h; cases h

theorem EncodingMatchesRow.accLoad : EncodingMatchesRow.Statement .accLoad := by
  intro m k h; cases h

theorem EncodingMatchesRow.accAdd (b : Byte) : EncodingMatchesRow.Statement (.accAdd b) := by
  intro m k h; cases h

theorem EncodingMatchesRow.accCmp (b : Byte) : EncodingMatchesRow.Statement (.accCmp b) := by
  intro m k h; cases h

theorem EncodingMatchesRow.checksum (s : List Byte) : EncodingMatchesRow.Statement (.checksum s) := by
  intro m k h; cases h

theorem EncodingMatchesRow.compose (c : Byte) (p : List Byte) : EncodingMatchesRow.Statement (.compose c p) := by
  intro m k h; cases h

theorem EncodingMatchesRow.parseState (f : List Byte) : EncodingMatchesRow.Statement (.parseState f) := by
  intro m k h; cases h

theorem EncodingMatchesRow.valid (f : List Byte) : EncodingMatchesRow.Statement (.valid f) := by
  intro m k h; cases h

theorem EncodingMatchesRow.classify (f : List Byte) : EncodingMatchesRow.Statement (.classify f) := by
  intro m k h; cases h

theorem EncodingMatchesRow.triple (f : List Byte) : EncodingMatchesRow.Statement (.triple f) := by
  intro m k h; cases h

theorem EncodingMatchesRow.handoff (f : List Byte) : EncodingMatchesRow.Statement (.handoff f) := by
  intro m k h; cases h

end Sys2Proof.Laws
end

