-- ==== Sys2Proof/Laws/Run.lean ====
section
/-! SUPPORT. Runs of several steps, one after the other, and the stream as it is offered. -/

namespace Sys2Proof.Machine

theorem runSteps_append {j k : Nat} {s t : State} (h : runSteps j s = .next t) :
    runSteps (j + k) s = runSteps k t := by
  induction j generalizing s with
  | zero => cases h; simp
  | succ j ih =>
    rw [Nat.succ_add]
    simp only [runSteps] at h ⊢
    cases hs : step s with
    | next u => rw [hs] at h; exact ih h
    | fault r => rw [hs] at h; cases h
    | refused r => rw [hs] at h; cases h

theorem runOutputs_append {j k : Nat} {s t : State} (h : runSteps j s = .next t) :
    runOutputs (j + k) s = runOutputs j s ++ runOutputs k t := by
  induction j generalizing s with
  | zero => cases h; simp [runOutputs]
  | succ j ih =>
    rw [Nat.succ_add]
    simp only [runSteps] at h
    cases hs : step s with
    | next u => rw [hs] at h; simp only [runOutputs, hs, ih h, List.append_assoc]
    | fault r => rw [hs] at h; cases h
    | refused r => rw [hs] at h; cases h

/-- An offered symbol is what the next step fetches. -/
theorem fetch_offer (s : State) (q : BitVec 3) (x : SymbolWord) (r : List (BitVec 3 × SymbolWord)) :
    fetch (s.offer ((q, x) :: r)) = some (.sym x) := by
  simp [fetch, State.offer, symbolDrive, State.drive, Drive.usual]

theorem drive_offer (s : State) (q : BitVec 3) (x : SymbolWord) (r : List (BitVec 3 × SymbolWord)) :
    (s.offer ((q, x) :: r)).drive.qReady = q := rfl

/-- A state whose stream and inputs are already those of `r` is as offered. -/
theorem offer_self {t : State} {r : List (BitVec 3 × SymbolWord)} (h1 : t.rx = r.map Prod.snd)
    (h2 : t.inputs = r.map fun x => symbolDrive x.1) : t.offer r = t := by
  obtain ⟨⟩ := t
  simp only at h1 h2
  subst h1 h2
  rfl

end Sys2Proof.Machine
end

