-- ==== Sys2Proof/Tests/Slice0.lean ====
section
/-! SUPPORT. The model's own tests: words written out from the spec's encodings, the well-formedness checks, vectors of
spec/95_test_vectors.md (named V<n> there), and for every statement with hypotheses a state and operands that meet them. -/

namespace Sys2Proof.Tests

open Sys2Proof Sys2Proof.Machine

/-! ## Helpers -/

/-- The next state of an outcome. -/
def nextOf : Result → Option State
  | .next s => some s
  | .fault _ => none
  | .refused _ => none

/-- The registers as the vectors write them: (st, idx, len_r, acc). -/
def regs (s : State) : ParserState × Index × Index × Byte := (s.st, s.idx, s.lenR, s.acc)

/-- A state after the start marker (V29). -/
def atLen : State := { State.reset with st := .len, idx := 1, acc := 0x02, buf := [(0, 0x02)] }

/-- A state in BODY with the given bytes accepted. -/
def atBody (lenR : Index) (bs : List Byte) : State :=
  { State.reset with
    st := .body, idx := BitVec.ofNat 7 bs.length, lenR := lenR, acc := sum8 bs,
    buf := bs.zipIdx.map fun x => (x.2, x.1) }

/-- A state in STOPPED. -/
def atStopped : State := { State.reset with st := .stopped }

/-- A state with one step's control inputs. -/
def driven (s : State) (rst stop rxValid : Bool) (rx : List SymbolWord) : State :=
  { s with rx := rx, inputs := [{ rst := rst, stop := stop, rxValid := rxValid, qReady := 0b111, call := none }] }

/-- A state with the usual control inputs and a caller's request. -/
def asked (s : State) (c : Call) (rx : List SymbolWord) : State :=
  { s with rx := rx, inputs := [{ Drive.usual with call := some c }] }

/-- The reference frame EVENT(1, 5, 255) of 95_test_vectors.md. -/
def ev : List Byte := [0x02, 0x06, 0x08, 0x01, 0x05, 0xFF, 0x15]

/-- The view of V40. -/
def viewLast : View := ⟨.body, 6, 6, 0x15⟩

/-! ## Words written out from the encodings of spec/opcode_table.json -/

theorem test_decode_huntSof : decode ⟨.hunt, 0, 0, 0⟩ (.sym 0b000000010) = .ok .huntSof := by decide
theorem test_decode_huntNoiseLf : decode ⟨.hunt, 0, 0, 0⟩ (.sym 0b000001010) = .ok .huntNoiseLf := by decide
theorem test_decode_huntNoiseCr : decode ⟨.hunt, 0, 0, 0⟩ (.sym 0b000001101) = .ok .huntNoiseCr := by decide
theorem test_decode_huntNoise : decode ⟨.hunt, 0, 0, 0⟩ (.sym 0b000000011) = .ok (.huntNoise 0x03) := by decide
theorem test_decode_huntTimeout : decode ⟨.hunt, 0, 0, 0⟩ (.sym 0b110100101) = .ok .huntTimeout := by decide
theorem test_decode_lenOk : decode ⟨.len, 1, 0, 2⟩ (.sym 0b000000011) = .ok (.lenOk 3) := by decide
theorem test_decode_lenBad : decode ⟨.len, 1, 0, 2⟩ (.sym 0b000000010) = .ok (.lenBad 2) := by decide
theorem test_decode_lenBad_high : decode ⟨.len, 1, 0, 2⟩ (.sym 0b011111111) = .ok (.lenBad 255) := by decide
theorem test_decode_lenTimeout : decode ⟨.len, 1, 0, 2⟩ (.sym 0b100000000) = .ok .lenTimeout := by decide
theorem test_decode_bodyByte : decode ⟨.body, 5, 6, 0x16⟩ (.sym 0b011111111) = .ok (.bodyByte 0xFF) := by decide
theorem test_decode_bodyLastOk : decode ⟨.body, 6, 6, 0x15⟩ (.sym 0b000010101) = .ok (.bodyLastOk 0x15) := by decide
theorem test_decode_bodyLastBad : decode ⟨.body, 6, 6, 0x15⟩ (.sym 0b000010100) = .ok (.bodyLastBad 0x14) := by decide
theorem test_decode_bodyTimeout : decode ⟨.body, 6, 6, 0x15⟩ (.sym 0b111111111) = .ok .bodyTimeout := by decide
theorem test_decode_stoppedHold : decode ⟨.stopped, 0, 0, 0⟩ (.sym 0b000000010) = .ok .stoppedHold := by decide
theorem test_decode_stoppedHold_stop : decode ⟨.stopped, 0, 0, 0⟩ (.ctrl 0b01) = .ok .stoppedHold := by decide
theorem test_decode_reset : decode ⟨.stopped, 0, 0, 0⟩ (.ctrl 0b11) = .ok .reset := by decide
theorem test_decode_stop : decode ⟨.hunt, 0, 0, 0⟩ (.ctrl 0b01) = .ok .stop := by decide
theorem test_decode_no_control : decode ⟨.hunt, 0, 0, 0⟩ (.ctrl 0b00) = .error .noControlEvent := by decide
theorem test_decode_cmdAck0 : decode resetView (.cmd 0b00000000) = .ok .cmdAck0 := by decide
theorem test_decode_cmdAck1 : decode resetView (.cmd 0b00000001) = .ok .cmdAck1 := by decide
theorem test_decode_cmdGetReply : decode resetView (.cmd 0b00000010) = .ok .cmdGetReply := by decide
theorem test_decode_cmdLog : decode resetView (.cmd 0b00000011) = .ok .cmdLog := by decide
theorem test_decode_cmdEvent : decode resetView (.cmd 0b00001000) = .ok .cmdEvent := by decide
theorem test_decode_cmdOther : decode resetView (.cmd 0b00001001) = .ok (.cmdOther 0x09) := by decide
theorem test_decode_accLoad : decode resetView .accLoad = .ok .accLoad := by decide
theorem test_decode_accAdd : decode resetView (.accAdd 0xFF) = .ok (.accAdd 0xFF) := by decide
theorem test_decode_accCmp : decode resetView (.accCmp 0x06) = .ok (.accCmp 0x06) := by decide
theorem test_decode_checksum : decode resetView (.checksum [0xFF, 0xFF]) = .ok (.checksum [0xFF, 0xFF]) := by decide
theorem test_decode_compose : decode resetView (.compose 1 [1, 5, 255]) = .ok (.compose 1 [1, 5, 255]) := by decide
theorem test_decode_parseState : decode resetView (.parseState ev) = .ok (.parseState ev) := by decide
theorem test_decode_valid : decode resetView (.valid ev) = .ok (.valid ev) := by decide
theorem test_decode_classify : decode resetView (.classify ev) = .ok (.classify ev) := by decide
theorem test_decode_triple : decode resetView (.triple ev) = .ok (.triple ev) := by decide
theorem test_decode_handoff : decode resetView (.handoff ev) = .ok (.handoff ev) := by decide

/-! ## The checks of WellFormed, each with a term it refuses -/

theorem test_wf_huntNoise_start : (Instr.huntNoise 0x02).wellFormed = false := by decide
theorem test_wf_huntNoise_lf : (Instr.huntNoise 0x0A).wellFormed = false := by decide
theorem test_wf_huntNoise_cr : (Instr.huntNoise 0x0D).wellFormed = false := by decide
theorem test_wf_lenOk_low : (Instr.lenOk 2).wellFormed = false := by decide
theorem test_wf_lenOk_high : (Instr.lenOk 65).wellFormed = false := by decide
theorem test_wf_lenBad : (Instr.lenBad 3).wellFormed = false ∧ (Instr.lenBad 64).wellFormed = false := by decide
theorem test_wf_cmdOther : ∀ c ∈ [0x00, 0x01, 0x02, 0x03, 0x08], (Instr.cmdOther c).wellFormed = false := by decide
theorem test_wf_classify : (Instr.classify [0x02, 0x03, 0x00, 0x06]).wellFormed = false := by decide
theorem test_wf_triple : (Instr.triple [0x02, 0x02, 0x04]).wellFormed = false := by decide
theorem test_wf_handoff : (Instr.handoff []).wellFormed = false := by decide
theorem test_selected_bodyByte : (Instr.bodyByte 0).selectedIn viewLast = false := by decide
theorem test_selected_bodyLastOk : (Instr.bodyLastOk 0x14).selectedIn viewLast = false := by decide
theorem test_selected_stop : Instr.stop.selectedIn ⟨.stopped, 0, 0, 0⟩ = false := by decide

/-! ## One step or one operation each, from 95_test_vectors.md -/

theorem test_constants : Config.lenMin + 1 = Config.frameMin ∧ Config.lenMax + 1 = Config.frameMax ∧
    Config.frameMax - 4 = Config.payloadMax := by decide

/-- V25. -/
theorem test_huntSof : (nextOf (step (driven State.reset false false true [0x002]))).map regs =
    some (.len, 1, 0, 0x02) := by decide
/-- V26. -/
theorem test_huntNoiseLf : (nextOf (step (driven State.reset false false true [0x00A]))).map State.out =
    some [.discard (.noiseQuiet 0x0A)] := by decide
/-- V26. -/
theorem test_huntNoiseCr : (nextOf (step (driven State.reset false false true [0x00D]))).map State.out =
    some [.discard (.noiseQuiet 0x0D)] := by decide
/-- V27. -/
theorem test_huntNoise : (nextOf (step (driven State.reset false false true [0x0FF]))).map State.out =
    some [.discard (.noise 0xFF)] := by decide
/-- V28. -/
theorem test_huntTimeout : (nextOf (step (driven State.reset false false true [0x1AA, 0x002]))).map
    (fun t => (regs t, t.out, t.rx)) = some ((.hunt, 0, 0, 0), [], [0x002]) := by decide
/-- V29. -/
theorem test_lenOk : (nextOf (step (driven atLen false false true [0x040]))).map regs =
    some (.body, 2, 64, 0x42) := by decide
/-- V30. -/
theorem test_lenBad : (nextOf (step (driven atLen false false true [0x041]))).map (fun t => (regs t, t.out)) =
    some ((.hunt, 0, 0, 0), [.discard (.badLen 0x41)]) := by decide
/-- V38. -/
theorem test_lenTimeout : (nextOf (step (driven atLen false false true [0x100]))).map State.out =
    some [.discard (.partialFrame 1)] := by decide
/-- V39. -/
theorem test_bodyByte : (nextOf (step (driven (atBody 6 [2, 6, 8, 1, 5]) false false true [0x0FF]))).map
    (fun t => (regs t, Memory.read t.buf 5)) = some ((.body, 6, 6, 0x15), some 0xFF) := by decide
/-- V40. -/
theorem test_bodyLastOk : (nextOf (step (driven (atBody 6 [2, 6, 8, 1, 5, 0xFF]) false false true [0x015]))).map
    (fun t => (regs t, t.out)) =
    some ((.hunt, 0, 0, 0), [.classified .event ev (some ⟨1, 5, 255⟩), .push .event ev]) := by decide
/-- V67. -/
theorem test_bodyLastOk_full :
    (nextOf (step { atBody 6 [2, 6, 8, 1, 5, 0xFF] with rx := [0x015], inputs := [symbolDrive 0b101] })).map State.out =
    some [.classified .event ev (some ⟨1, 5, 255⟩), .discard (.qFull .event ev)] := by decide
/-- V41. -/
theorem test_bodyLastBad : (nextOf (step (driven (atBody 6 [2, 6, 8, 1, 5, 0xFE]) false false true [0x015]))).map
    (fun t => (regs t, t.out)) = some ((.hunt, 0, 0, 0), [.discard (.badChk 0x14 0x15)]) := by decide
/-- V43. -/
theorem test_bodyTimeout : (nextOf (step (driven (atBody 6 [2, 6, 8, 1]) false false true [0x100]))).map State.out =
    some [.discard (.partialFrame 4)] := by decide
/-- V51. -/
theorem test_stop_hunt : (nextOf (step (driven State.reset false true true [0x002]))).map
    (fun t => (regs t, t.out, t.rx)) = some ((.stopped, 0, 0, 0), [], [0x002]) := by decide
/-- V52. -/
theorem test_stop_body : (nextOf (step (driven (atBody 6 [2, 6]) false true true [0x002]))).map
    (fun t => (regs t, t.out)) = some ((.stopped, 0, 0, 0), [.discard (.stopPartial 2)]) := by decide
/-- V53. -/
theorem test_stoppedHold : (nextOf (step (driven atStopped false false true [0x002]))).map
    (fun t => (regs t, t.out, t.rx)) = some ((.stopped, 0, 0, 0), [], [0x002]) := by decide
/-- V56. -/
theorem test_reset_wins : (nextOf (step (driven (atBody 6 [2, 6]) true true true [0x008]))).map
    (fun t => (regs t, t.out, t.rx)) = some ((.hunt, 0, 0, 0), [], [0x008]) := by decide
/-- V6. -/
theorem test_accAdd_wraps : (nextOf (exec (.accAdd 0xFF) (atBody 6 [2, 6, 8, 1, 5]))).map State.acc = some 0x15 := by
  decide
/-- V6. -/
theorem test_accLoad : (nextOf (exec .accLoad (atBody 6 [2, 6, 8]))).map State.acc = some 0x02 := by decide
/-- V9. -/
theorem test_accCmp : (nextOf (exec (.accCmp 0x06) (atBody 3 [2, 3, 0]))).map (fun t => (t.res, t.acc)) =
    some (some (.chkOk false), 0x05) := by decide
/-- V3. -/
theorem test_checksum : (nextOf (exec (.checksum [2, 6, 8, 1, 5, 0xFF]) State.reset)).map State.res =
    some (some (.sum 0x15)) := by decide
/-- V10. -/
theorem test_compose : (nextOf (exec (.compose 8 [1, 5, 255]) State.reset)).map (fun t => (t.res, t.txAcc, t.tx)) =
    some (some (.frame ev), 0x15, ev) := by decide
/-- V18. -/
theorem test_compose_tooLarge : (nextOf (exec (.compose 8 (List.replicate 62 0)) State.reset)).map State.res =
    some (some (.frameTooLarge 62)) := by decide
/-- V21. -/
theorem test_parseState : (nextOf (exec (.parseState [0, 0, 0, 7, 8, 9, 0x18]) State.reset)).map State.res =
    some (some (.parsed ⟨7, 8, 9⟩)) := by decide
/-- V23. -/
theorem test_parseState_invalid : (nextOf (exec (.parseState [2, 6, 8, 1, 5, 0xFE, 0x15]) State.reset)).map State.res =
    some (some .invalid) := by decide
/-- V24. -/
theorem test_valid : validFrame ev = true ∧ validFrame [0x02, 0x02, 0x04] = false ∧
    validFrame [0, 0, 0, 7, 8, 9, 0x18] = false := by decide
/-- V59, V60: code 1 is Ack and code 2 is GetReply when received. -/
theorem test_classify : classifyFrame [2, 6, 1, 1, 5, 0xFF, 0x0E] = .ack ∧
    classifyFrame [2, 6, 2, 2, 7, 0x0A, 0x1D] = .getReply := by decide
/-- V64. -/
theorem test_cmdOther : ∀ c ∈ [0x03, 0x04, 0x07, 0x09, 0x10, 0x55, 0xFF], classOfCommand c = .ignored := by decide
/-- V66. -/
theorem test_triple : tripleOf [2, 5, 8, 1, 5, 0x15] = none ∧ tripleOf [2, 6, 8, 2, 3, 0xC8, 0xDD] = some ⟨2, 3, 200⟩ := by
  decide
/-- V69, V70. -/
theorem test_handoff : handoffOutputs 0b000 [2, 5, 3, 1, 1, 0x0C] = [.classified .ignored [2, 5, 3, 1, 1, 0x0C] none] ∧
    handoffOutputs 0b110 [2, 3, 0, 5] = [.classified .ack [2, 3, 0, 5] none, .discard (.qFull .ack [2, 3, 0, 5])] := by
  decide
/-- R140, C10: the ports of V67. -/
theorem test_ports_full : diagPort (handoffOutputs 0b101 ev) = some { cause := 5, info := 1 } ∧
    pushPort (handoffOutputs 0b010 ev) = 0b010 := by decide
/-- R140: the two bytes of V41's BADCHK on `diag_info`, in the places of log entry 8. -/
theorem test_ports_badChk : diagPort [.discard (.badChk 0x14 0x15)] = some { cause := 4, info := 0x1415 } := by decide
/-- P7: the false frame fails its checksum and the second frame's tail is noise. -/
theorem test_scan : scan (byteStream 0b111 [2, 7, 8, 1, 5, 0xFF, 0x15, 2, 6, 0x0A]) =
    [.discard (.badChk 0x2B 0x02), .discard (.noise 0x06), .discard (.noiseQuiet 0x0A)] := by decide

/-! ## Words of the opcode table, and where the next step fetches them -/

theorem test_table_symbols : decodeTableWord 16 0x002 = some .huntSof ∧ decodeTableWord 16 0x00D = some .huntNoiseCr ∧
    decodeTableWord 16 0x100 = some .huntTimeout ∧ decodeTableWord 16 0x000 = some (.huntNoise 0) := by decide
theorem test_table_bytes : decodeTableWord 8 0x02 = some .reset ∧ decodeTableWord 8 0x01 = some .stop ∧
    decodeTableWord 8 0x00 = some .cmdAck0 ∧ decodeTableWord 8 0x08 = some .cmdEvent ∧ decodeTableWord 0 0 = none := by
  decide
theorem test_fetchWord_symbol : fetch (State.reset.withFetchWord 16 0x002) = some (.sym 0x002) := by decide
theorem test_fetchWord_stop : fetch (State.reset.withFetchWord 8 0x01) = some (.ctrl 0b01) := by decide
theorem test_fetchWord_command : fetch (State.reset.withFetchWord 8 0x08) = none ∧
    (State.reset.withFetchWord 8 0x08).drive.call.map callWord = some (.cmd 0x08) := by decide
theorem test_fetchWord_command_runs : (nextOf (step (State.reset.withFetchWord 8 0x08))).map State.res =
    some (some (.frameClass .event (some 1))) := by decide

/-! ## Witnesses: states and operands that meet the hypotheses of the statements -/

theorem witness_HuntSofStartsAFrame : resetView.st = .hunt ∧ (64 : Nat) ≠ 0 := by decide
theorem witness_HuntQuietNoiseIsDiscarded : resetView.st = .hunt ∧ atLen.view.st = .len ∧
    (⟨.body, 63, 64, 0⟩ : View).st = .body ∧ (⟨.body, 63, 64, 0⟩ : View).idx < (⟨.body, 63, 64, 0⟩ : View).lenR := by decide
theorem witness_HuntNoiseIsDiscarded : resetView.st = .hunt ∧
    ∀ b ∈ [(0x00 : Byte), 0x01, 0x03, 0x09, 0x0B, 0x0C, 0x0E, 0xFF], b ≠ 0x02 ∧ b ≠ 0x0A ∧ b ≠ 0x0D := by decide
theorem witness_HuntTimeoutDoesNothing : resetView.st = .hunt := by decide
theorem witness_LenOkAcceptsTheLength : atLen.view.st = .len ∧ atLen.acc = 0x02 ∧
    ∀ l ∈ [(3 : Byte), 64], 3 ≤ l.toNat ∧ l.toNat ≤ 64 := by decide
theorem witness_LenBadIsDiscarded : atLen.view.st = .len ∧ (2 : Byte).toNat < 3 ∧ 64 < (65 : Byte).toNat := by decide
theorem witness_LenTimeoutIsPartial : atLen.view.st = .len := by decide
theorem witness_BodyByteIsCollected : (atBody 64 (List.replicate 63 0)).view.st = .body ∧
    (atBody 64 (List.replicate 63 0)).idx < (atBody 64 (List.replicate 63 0)).lenR ∧
    (atBody 64 (List.replicate 64 0)).idx.toNat = 64 := by decide
theorem witness_BodyLastOkHandsOff : viewLast.st = .body ∧ viewLast.idx = viewLast.lenR ∧ viewLast.acc = 0x15 ∧
    (atBody 64 (List.replicate 64 0)).lenR.toNat = 64 ∧ (atBody 3 [2, 3, 0]).lenR.toNat = 3 := by decide
theorem witness_BodyLastBadIsDiscarded : viewLast.st = .body ∧ viewLast.idx = viewLast.lenR ∧ viewLast.acc ≠ 0x14 := by
  decide
theorem witness_BodyTimeoutIsPartial : viewLast.st = .body ∧ (atBody 3 [2, 3]).Legal ∧ (atBody 3 [2, 3]).st = .body ∧
    (atBody 3 [2, 3]).idx.toNat = 2 ∧ (atBody 64 (List.replicate 64 0)).idx.toNat = 64 :=
  ⟨by decide, by decide, by decide, by decide, by decide⟩
theorem witness_StopDropsTheFrame : resetView.st ≠ .stopped ∧ atLen.st = .len ∧ (atBody 6 [2, 6]).st = .body ∧
    State.reset.st = .hunt ∧ atStopped.st = .stopped := by decide
theorem witness_StoppedHoldsStill : atStopped.view.st = .stopped ∧ atStopped.st = .stopped ∧
    decode atStopped.view (.ctrl 0b10) = .ok .reset := by decide
theorem witness_ResetClearsTheParser : atStopped.st = .stopped ∧
    (nextOf (step (driven atStopped true false true []))).map State.st = some .hunt := by decide
theorem witness_CommandMapClasses : ∀ c ∈ [(0x04 : Byte), 0x07, 0x09, 0xFF],
    c ≠ 0x00 ∧ c ≠ 0x01 ∧ c ≠ 0x02 ∧ c ≠ 0x03 ∧ c ≠ 0x08 := by decide
theorem witness_ClassifyFollowsTheCommandMap : ev[2]? = some 0x08 ∧ [2, 3, 0, (5 : Byte)][2]? = some 0x00 := by decide
theorem witness_ClassifyAndTripleAnswer : [2, 5, 8, 1, 5, (0x15 : Byte)].length < 7 := by decide
theorem witness_HandoffOutputsByClass : ev[2]? = some 0x08 ∧ [2, 3, 0, (5 : Byte)][2]? = some 0x00 ∧
    [2, 3, 1, (6 : Byte)][2]? = some 0x01 ∧ [2, 3, 2, (7 : Byte)][2]? = some 0x02 ∧
    [2, 3, 9, (0x0E : Byte)][2]? = some 0x09 := by decide
theorem witness_ComposeBuildsAndSendsTheFrame : (List.replicate 61 (0 : Byte)).length ≤ 61 ∧
    62 ≤ (List.replicate 62 (0 : Byte)).length := by decide
theorem witness_OnlyComposeTouchesTheComposer : nextOf (exec .reset State.reset) ≠ none ∧
    ∀ (c : Byte) (p : List Byte), Instr.reset ≠ .compose c p := ⟨by decide, by intro c p h; cases h⟩
theorem witness_ParseStateAnswer : [2, 5, 8, 1, 5, (0x15 : Byte)].length < 7 := by decide
theorem witness_ComposeParseRoundTrip : (List.replicate 61 (7 : Byte)).length ≤ 61 ∧
    List.replicate 61 (7 : Byte) = 7 :: 7 :: 7 :: List.replicate 58 7 := by decide
theorem witness_SingleByteChangeIsRejected : composeFrame 8 [1, 5, 255] = .frame ev ∧ 3 ≤ [1, 5, (255 : Byte)].length ∧
    (0 < ev.length ∧ ev[0]? ≠ some 0x03) ∧ (6 < ev.length ∧ ev[6]? ≠ some 0x14) := by decide
theorem witness_DecodeEncodeRoundTrip : (Instr.bodyLastOk 0x15).wellFormed = true ∧
    (Instr.bodyLastOk 0x15).selectedIn viewLast = true := by decide
theorem witness_EverySymbolHasExactlyOneRow : viewLast.idx ≤ viewLast.lenR ∧
    symMatches viewLast (.bodyLastOk 0x15) 0x015 = true := by decide
theorem witness_EveryCommandHasExactlyOneRow : (Instr.cmdOther 0x09).wellFormed = true ∧
    encode (.cmdOther 0x09) = .cmd 0x09 := by decide
theorem witness_StepRunsTheDecodedOperation :
    (fetch (driven atLen false false true [0x006]) = some (.sym 0x006) ∧
      decode (driven atLen false false true [0x006]).view (.sym 0x006) = .ok (.lenOk 6) ∧
      nextOf (exec (.lenOk 6) (driven atLen false false true [0x006])) ≠ none) ∧
    fetch State.reset = none := by decide
theorem witness_StepRunsTheDecodedOperation_fault :
    fetch { driven (atBody 80 []) false false true [0x006] with idx := 65 } = some (.sym 0x006) ∧
    decode { driven (atBody 80 []) false false true [0x006] with idx := 65 }.view (.sym 0x006) = .ok (.bodyByte 6) ∧
    exec (.bodyByte 6) { driven (atBody 80 []) false false true [0x006] with idx := 65 } = .fault (.bufferAddress 65) :=
  ⟨by decide, by decide, rfl⟩
theorem witness_StepRunsTheDecodedOperation_undecoded :
    fetch (driven (atBody 3 [2, 3, 4, 5]) false false true [0x006]) = some (.sym 0x006) ∧
    decode (driven (atBody 3 [2, 3, 4, 5]) false false true [0x006]).view (.sym 0x006) = .error .noRowForIndex := by decide
theorem witness_EventPriority : (driven State.reset true true true []).drive.rst = true ∧
    (driven State.reset false true true []).drive.stop = true ∧ (driven atStopped false true true []).st = .stopped ∧
    (driven State.reset false false true [0x002]).rx = [0x002] ∧
    (driven State.reset false false false [0x002]).drive.rxValid = false := by decide
theorem witness_EventPriority_noSymbol : (driven State.reset false false true []).inputs =
    [{ rst := false, stop := false, rxValid := true, qReady := 0b111, call := none }] ∧
    (driven State.reset false false true []).rx = [] ∧ fetch (driven State.reset false false true []) = none := by decide
theorem witness_EventPriority_caller : (asked atLen (.valid ev) [0x006]).inputs =
    [{ Drive.usual with call := some (.valid ev) }] ∧ fetch (asked atLen (.valid ev) [0x006]) = some (.sym 0x006) := by
  decide
theorem witness_RstWinsInEveryState : (driven (atBody 6 [2, 6]) true true true [0x008]).inputs =
    [{ rst := true, stop := true, rxValid := true, qReady := 0b111, call := none }] := by decide
theorem witness_StopIsObservedAtOnce : (driven atLen false true true []).inputs =
    [{ rst := false, stop := true, rxValid := true, qReady := 0b111, call := none }] ∧ (driven atLen false true true []).st ≠ .stopped := by
  decide
theorem witness_EachSymbolIsTakenOnce : nextOf (step (driven atLen false false true [0x006])) ≠ none := by decide
/-- R172: a caller's request does not hold up the stream. -/
theorem test_caller_beside_symbol : (nextOf (step (asked atLen (.valid ev) [0x006]))).map
    (fun t => (regs t, t.rx, t.res)) = some ((.body, 2, 6, 0x08), [], some (.isValid true)) := by decide
theorem witness_EachSymbolIsTakenOnce_caller : rxReady (asked atLen (.valid ev) [0x006]) = true ∧
    rxReady (driven atLen true false true [0x006]) = false ∧ rxReady (driven atLen false true true [0x006]) = false := by
  decide
theorem witness_OnlyTheIndexedByteIsWritten :
    decode (driven atLen false false true [0x041]).view (.sym 0x041) = .ok (.lenBad 0x41) ∧
    fetch (driven atLen false false true [0x041]) = some (.sym 0x041) ∧
    nextOf (step (driven atLen false false true [0x041])) ≠ none := ⟨by decide, by decide, by decide⟩
theorem witness_OnlyTheIndexedByteIsWritten_store : (driven atLen false false true [0x040]).Legal ∧
    nextOf (step (driven atLen false false true [0x040])) ≠ none := ⟨by decide, by decide⟩
theorem witness_StoppedIsAbsorbing : atStopped.st = .stopped ∧
    ∀ (n : Nat) (d : Drive), n < 5 → atStopped.inputs[n]? = some d → d.rst = false :=
  ⟨by decide, by intro n d _ h; simp [atStopped, State.reset] at h⟩
theorem witness_CallsDoNotTouchTheParser :
    nextOf (step { atLen with inputs := { Drive.usual with call := none } :: [] }) ≠ none := by decide
theorem witness_StepRunsTheDecodedOperation_caller : (asked atLen (.valid ev) [0x006]).drive.call = some (.valid ev) ∧
    decode (asked atLen (.valid ev) [0x006]).view (callWord (.valid ev)) = .ok (.valid ev) ∧
    nextOf (exec (.valid ev) (asked atLen (.valid ev) [0x006])) ≠ none ∧
    fetch (asked atLen (.valid ev) []) = none := by decide
theorem witness_Legal : State.reset.Legal ∧ atLen.Legal ∧ (atBody 6 [2, 6, 8, 1, 5, 0xFF]).Legal ∧ atStopped.Legal :=
  ⟨by decide, by decide, by decide, by decide⟩
theorem witness_Legal_step : (driven (atBody 6 [2, 6, 8, 1, 5, 0xFF]) false false true [0x015]).Legal ∧
    nextOf (step (driven (atBody 6 [2, 6, 8, 1, 5, 0xFF]) false false true [0x015])) ≠ none := by decide
theorem witness_WhereTheMachineStops : (⟨.body, 4, 3, 0⟩ : View).lenR < (⟨.body, 4, 3, 0⟩ : View).idx ∧
    symIsTimeout 0x006 = false ∧ { State.reset with idx := 65 }.idx.toNat = 65 ∧
    { State.reset with lenR := 65 }.lenR.toNat = 65 := by decide
theorem witness_ValidFrameIsDelivered : State.reset.Legal ∧ State.reset.st = .hunt ∧ validFrame ev = true := by decide
theorem witness_NoiseThenFrameResynchronises : State.reset.Legal ∧ State.reset.st = .hunt ∧ validFrame ev = true ∧
    ∀ x ∈ [((0b111 : BitVec 3), (0x00A : SymbolWord)), (0b111, 0x003), (0b111, 0x102)],
      symIsTimeout x.2 = true ∨ symData x.2 ≠ 0x02 := by
  refine ⟨by decide, by decide, by decide, ?_⟩
  simp only [List.mem_cons, List.not_mem_nil, or_false, forall_eq_or_imp, forall_eq]
  decide
theorem witness_BackToBackFramesAreDelivered : ∀ f ∈ [ev, [2, 3, 0, 5]], validFrame f = true := by decide
theorem witness_BackToHuntWithin64Symbols : atLen.Legal ∧ atLen.st ≠ .stopped ∧
    64 ≤ (List.replicate 64 ((0b111 : BitVec 3), (0x040 : SymbolWord))).length :=
  ⟨by decide, by decide, by simp⟩
theorem witness_HandoffsAreFourSymbolsApart : (State.reset.offer (byteStream 0b111 [2, 3, 0, 5])).Legal ∧
    (nextOf (runSteps (3 + 1) (State.reset.offer (byteStream 0b111 [2, 3, 0, 5])))).map
      (fun t => t.out.any Output.isClassified) = some true := by decide
theorem witness_StaleStateIsUnobservable : State.reset.Legal ∧ { State.reset with buf := [(0, 0x02), (1, 0x06)] }.Legal ∧
    State.reset.buf ≠ [(0, 0x02), (1, 0x06)] := ⟨by decide, by decide, by decide⟩
theorem witness_DiscardInfosOnThePorts : atLen.st = .len ∧ (atBody 6 [2, 6]).st = .body := by decide
theorem witness_PortCodes : ev[2]? = some 0x08 ∧ ev.length ≤ 65 := by decide

end Sys2Proof.Tests
end

section
/-! SUPPORT. What a byte and a Timeout select in each parser state (41_synchronizer.md R102 to R112), with the byte's
tests written as numerals. -/

namespace Sys2Proof

open Sys2Proof.Machine

/-- A byte read in HUNT (R102 to R104). -/
theorem decode_byte_hunt {v : View} (b : Byte) (h : v.st = .hunt) :
    decode v (.sym (symOfByte b)) = .ok
      (if b = 0x02 then .huntSof else if b = 0x0A then .huntNoiseLf
        else if b = 0x0D then .huntNoiseCr else .huntNoise b) := by
  simp [decode_sym_hunt _ h, decodeHunt, Config.start, Config.lineFeed, Config.carriageReturn]

/-- A byte read in LEN (R106, R107). -/
theorem decode_byte_len {v : View} (l : Byte) (h : v.st = .len) :
    decode v (.sym (symOfByte l)) = .ok (if 3 ≤ l.toNat ∧ l.toNat ≤ 64 then .lenOk l else .lenBad l) := by
  simp [decode_sym_len _ h, decodeLen, lengthLegal_iff]

/-- A byte read in BODY before the last one (R109). -/
theorem decode_byte_body_of_lt {v : View} (b : Byte) (h : v.st = .body) (hlt : v.idx < v.lenR) :
    decode v (.sym (symOfByte b)) = .ok (.bodyByte b) := by
  simp [decode_sym_body _ h, decodeBody, hlt]

/-- The last byte of the frame, read in BODY (R110, R111). -/
theorem decode_byte_body_of_eq {v : View} (b : Byte) (h : v.st = .body) (heq : v.idx = v.lenR) :
    decode v (.sym (symOfByte b)) = .ok (if v.acc = b then .bodyLastOk b else .bodyLastBad b) := by
  simp [decode_sym_body _ h, decodeBody, heq, chkOk_iff, apply_ite Except.ok]

/-- A Timeout read in BODY, whatever its data bits and the registers are (R112). -/
theorem decode_timeout_body {v : View} (d : Byte) (h : v.st = .body) :
    decode v (.sym (0x100 ||| symOfByte d)) = .ok .bodyTimeout := by
  rw [decode_sym_body _ h, decodeBody, if_pos (symIsTimeout_ignores_data d)]

end Sys2Proof
end

section
/-! SUPPORT. The full next state of the synchroniser's rows, and the arithmetic of the two 7-bit registers. -/

namespace Sys2Proof.Machine

/-- What a discard leaves of the state of a step that consumes a symbol (R101): the registers of `EnterHunt` and the one
Output. -/
theorem raise_low_consume (d : Discard) (s : State) :
    s.low.consume.raise d = { s with
      st := .hunt, idx := 0, lenR := 0, acc := 0x00,
      rx := s.rx.tail, out := [.discard d], res := none, tx := [] } := rfl

/-- HUNT_SOF (R102): address 0 is within the buffer, so the store goes on. -/
theorem exec_huntSof (s : State) :
    exec .huntSof s = .next { s with
      st := .len, idx := 1, acc := 0x02, buf := Memory.write s.buf 0 0x02,
      rx := s.rx.tail, out := [], res := none, tx := [] } := by
  rw [exec, execHuntSof, storeByte_within (Nat.zero_le 64)]
  rfl

/-- LEN_OK (R106): address 1 is within the buffer, so the store goes on. -/
theorem exec_lenOk (l : Byte) (s : State) :
    exec (.lenOk l) s = .next { s with
      st := .body, idx := 2, lenR := l.setWidth 7, acc := s.acc + l, buf := Memory.write s.buf 1 l,
      rx := s.rx.tail, out := [], res := none, tx := [] } := by
  rw [exec, execLenOk, storeByte_within (by decide)]
  rfl

/-- BODY_BYTE (R109), with `idx` in its range (R22). -/
theorem exec_bodyByte (b : Byte) (s : State) (h : s.idx.toNat ≤ 64) :
    exec (.bodyByte b) s = .next { s with
      idx := s.idx + 1, acc := s.acc + b, buf := Memory.write s.buf s.idx.toNat b,
      rx := s.rx.tail, out := [], res := none, tx := [] } := by
  rw [exec, execBodyByte, storeByte_within h]
  rfl

/-- The low seven bits of a length byte are its value when it is legal (R106). -/
theorem toNat_setWidth_seven {l : Byte} (h : l.toNat ≤ 64) : (l.setWidth 7).toNat = l.toNat := by
  rw [BitVec.toNat_setWidth]
  exact Nat.mod_eq_of_lt (by omega)

/-- The sum of the marker and a legal length does not wrap (R106). -/
theorem toNat_start_add {l : Byte} (h : l.toNat ≤ 64) : (0x02 + l).toNat = l.toNat + 2 := by
  have : (0x02 : Byte).toNat = 2 := rfl
  rw [BitVec.toNat_add]
  omega

/-- An index in the range of R22 goes up by one without a wrap. -/
theorem toNat_index_succ {i : Index} (h : i.toNat ≤ 64) : (i + 1).toNat = i.toNat + 1 := by
  have : (1 : Index).toNat = 1 := rfl
  rw [BitVec.toNat_add]
  omega

end Sys2Proof.Machine
end

section
/-! PROOFS. The rows of HUNT, LEN and BODY (41_synchronizer.md R102 to R112): each selection from the decoder's facts,
each next state from its row's equation. -/

namespace Sys2Proof.Proofs

open Sys2Proof Sys2Proof.Machine

/-- Settles O1. The symbol 0x002 is the byte 0x02; the store is at address 0. -/
theorem huntSofStartsAFrame : Obligations.HuntSofStartsAFrame := by
  unfold Obligations.HuntSofStartsAFrame
  refine ⟨fun v hv => ?_, fun s => ?_⟩
  · exact decode_byte_hunt 0x02 hv
  · exact ⟨_, exec_huntSof s, rfl, Memory.read_write_same s.buf 0 0x02,
      fun a ha => Memory.read_write_other s.buf 0 0x02 ha⟩

/-- Settles O3. The three excepted bytes are those of the rows that the decoder tries before HUNT_NOISE; the row's next
state is its definition. -/
theorem huntNoiseIsDiscarded : Obligations.HuntNoiseIsDiscarded := by
  unfold Obligations.HuntNoiseIsDiscarded
  refine ⟨fun v b hv hsof hlf hcr => ?_, fun b s => rfl⟩
  rw [decode_byte_hunt b hv, if_neg hsof, if_neg hlf, if_neg hcr]

/-- Settles O5. The store is at address 1, and a legal length fits both registers. -/
theorem lenOkAcceptsTheLength : Obligations.LenOkAcceptsTheLength := by
  unfold Obligations.LenOkAcceptsTheLength
  refine ⟨fun v l hv hmin hmax => ?_, fun l s => ⟨_, exec_lenOk l s, rfl, ?_, ?_, ?_, ?_⟩⟩
  · rw [decode_byte_len l hv, if_pos ⟨hmin, hmax⟩]
  · exact toNat_setWidth_seven
  · intro hacc hmax
    change (s.acc + l).toNat = _
    rw [hacc, toNat_start_add hmax]
  · exact Memory.read_write_same s.buf 1 l
  · exact fun a ha => Memory.read_write_other s.buf 1 l ha

/-- Settles O6. A length outside the bounds is raised as BADLEN. -/
theorem lenBadIsDiscarded : Obligations.LenBadIsDiscarded := by
  unfold Obligations.LenBadIsDiscarded
  refine ⟨fun v l hv hout => ?_, fun l s => ?_⟩
  · have hillegal : ¬ (3 ≤ l.toNat ∧ l.toNat ≤ 64) := by omega
    rw [decode_byte_len l hv, if_neg hillegal]
  · rw [exec, execLenBad, raise_low_consume]

/-- Settles O8. The store is at `idx`, which R22's range keeps within the buffer and below the wrap. -/
theorem bodyByteIsCollected : Obligations.BodyByteIsCollected := by
  unfold Obligations.BodyByteIsCollected
  refine ⟨fun v b hv hlt => decode_byte_body_of_lt b hv hlt, fun b s hidx => ?_⟩
  exact ⟨_, exec_bodyByte b s hidx, rfl, toNat_index_succ hidx, Memory.read_write_same s.buf s.idx.toNat b,
    fun a ha => Memory.read_write_other s.buf s.idx.toNat b ha⟩

/-- Settles O10. A last byte that differs from the accumulator is raised as BADCHK, with both bytes. -/
theorem bodyLastBadIsDiscarded : Obligations.BodyLastBadIsDiscarded := by
  unfold Obligations.BodyLastBadIsDiscarded
  refine ⟨fun v b hv heq hne => ?_, fun b s => ?_⟩
  · rw [decode_byte_body_of_eq b hv heq, if_neg hne]
  · rw [exec, execBodyLastBad, raise_low_consume]

/-- Settles O11. A Timeout is raised as PARTIAL with `idx`; the bounds of `idx` are the invariants of R35 in BODY. -/
theorem bodyTimeoutIsPartial : Obligations.BodyTimeoutIsPartial := by
  unfold Obligations.BodyTimeoutIsPartial
  refine ⟨fun v d hv => decode_timeout_body d hv, fun s => ?_, fun s hlegal hst => ?_⟩
  · rw [exec, execBodyTimeout, raise_low_consume]
  · obtain ⟨-, -, -, hbody, -⟩ := hlegal
    obtain ⟨-, hlen, hidx, hidxLen, -⟩ := hbody hst
    exact ⟨hidx, hidxLen.trans hlen⟩

end Sys2Proof.Proofs
end

section
/-! SUPPORT. The codec's functions as their callers see them (43_codec.md R132, R135): the byte tests on list look-ups,
with no free value left, and the full next state of a function that only answers. -/

namespace Sys2Proof.Machine

/-- A test on a byte that the sequence has is a test on the list look-up. -/
theorem byteAt_eq_iff {f : List Byte} {i : Nat} {b : Byte} (h : i < f.length) : byteAt f i = b ↔ f[i]? = some b := by
  rw [getElem?_byteAt h, Option.some_inj]

/-- The test of `f[1]` in VALID (R135); a frame within 65 bytes has a length that fits the byte. -/
theorem toNat_byteAt_one_iff {f : List Byte} (hmin : 4 ≤ f.length) (hmax : f.length ≤ 65) :
    (byteAt f 1).toNat = f.length - 1 ↔ f[1]? = some (BitVec.ofNat 8 (f.length - 1)) := by
  rw [← byteAt_eq_iff (by omega), BitVec.toNat_eq_nat]
  exact and_iff_right (by omega)

/-- The four tests of VALID as its definition makes them (R135). -/
theorem validFrame_iff_byteAt (f : List Byte) :
    validFrame f = true ↔
      4 ≤ f.length ∧ f.length ≤ 65 ∧ byteAt f 0 = 0x02 ∧ (byteAt f 1).toNat = f.length - 1 ∧
      byteAt f (f.length - 1) = sum8 (f.take (f.length - 1)) := by
  simp only [validFrame, Bool.and_eq_true, decide_eq_true_eq, beq_iff_eq, and_assoc]
  exact Iff.rfl

/-- The four tests of VALID on list look-ups (R135): a frame of the lengths allowed has every byte that is tested. -/
theorem validFrame_iff (f : List Byte) :
    validFrame f = true ↔
      4 ≤ f.length ∧ f.length ≤ 65 ∧ f[0]? = some 0x02 ∧ f[1]? = some (BitVec.ofNat 8 (f.length - 1)) ∧
      f[f.length - 1]? = some (sum8 (f.take (f.length - 1))) := by
  rw [validFrame_iff_byteAt]
  refine and_congr_right fun hmin => and_congr_right fun hmax => ?_
  rw [byteAt_eq_iff (by omega), toNat_byteAt_one_iff hmin hmax, byteAt_eq_iff (by omega)]

/-- PARSE_STATE of fewer than 7 bytes (R132). -/
theorem parseFrame_of_short {f : List Byte} (h : f.length < 7) : parseFrame f = none := by
  rw [parseFrame, Config.parseMin, if_pos h]

/-- The byte after `g` is the one at index `|g|`. -/
theorem byteAt_concat_length (g : List Byte) (k : Byte) : byteAt (g ++ [k]) g.length = k :=
  byteAt_of_getElem? List.getElem?_concat_length

/-- PARSE_STATE of at least 7 bytes, the last one set apart (R132): it alone decides whether the answer is a triple. -/
theorem parseFrame_concat {g : List Byte} (k : Byte) (h : 6 ≤ g.length) :
    parseFrame (g ++ [k]) =
      if sum8 g = k then some ⟨byteAt (g ++ [k]) 3, byteAt (g ++ [k]) 4, byteAt (g ++ [k]) 5⟩ else none := by
  have hlast : (g ++ [k]).length - 1 = g.length := by simp
  have hlong : ¬ (g ++ [k]).length < 7 := by
    rw [List.length_append, List.length_singleton]
    omega
  rw [parseFrame, Config.parseMin, if_neg hlong, hlast, List.take_left, byteAt_concat_length, ite_not]

/-- CHECKSUM (R85). -/
theorem exec_checksum (bs : List Byte) (s : State) :
    exec (.checksum bs) s = .next { s with out := [], res := some (.sum (sum8 bs)), tx := [] } := rfl

/-- VALID (R135). -/
theorem exec_valid (f : List Byte) (s : State) :
    exec (.valid f) s = .next { s with out := [], res := some (.isValid (validFrame f)), tx := [] } := rfl

/-- PARSE_STATE (R132): a triple is answered as it is, and no triple as `invalid`. -/
theorem exec_parseState (f : List Byte) (s : State) :
    exec (.parseState f) s =
      .next { s with out := [], res := some ((parseFrame f).elim .invalid .parsed), tx := [] } := by
  rw [exec, execParseState]
  cases parseFrame f with
  | none => rfl
  | some t => rfl

end Sys2Proof.Machine
end

section
/-! PROOFS. The answers of CHECKSUM and VALID, and of PARSE_STATE (40_checksum.md R85, 43_codec.md R132, R135). -/

namespace Sys2Proof.Proofs

open Sys2Proof Sys2Proof.Machine

/-- Settles O23. VALID answers `validFrame`, whose tests are list look-ups by `validFrame_iff`. -/
theorem checksumAndValidAnswer : Obligations.ChecksumAndValidAnswer := by
  unfold Obligations.ChecksumAndValidAnswer
  exact ⟨exec_checksum, fun f s => ⟨validFrame f, exec_valid f s, validFrame_iff f⟩⟩

/-- Settles O26. With the last byte set apart the answer turns on one comparison, and bytes 3, 4, 5 stand before it. -/
theorem parseStateAnswer : Obligations.ParseStateAnswer := by
  unfold Obligations.ParseStateAnswer
  refine ⟨fun f s hshort => ?_, fun s b0 b1 b2 x y z k r => ?_⟩
  · rw [exec_parseState, parseFrame_of_short hshort]
    rfl
  · have hparse := parseFrame_concat (g := b0 :: b1 :: b2 :: x :: y :: z :: r) k (by simp)
    simp only [List.cons_append] at hparse
    rw [exec_parseState, hparse, apply_ite (Option.elim · FnResult.invalid FnResult.parsed)]
    rfl

end Sys2Proof.Proofs
end

section
/-! SUPPORT. The rest of what the decoder selects: a Timeout in HUNT and LEN, a byte in BODY at any `idx`, a control
pair; and the constraints of the rows of BODY. -/

namespace Sys2Proof

open Sys2Proof.Machine

/-- A Timeout read in HUNT, whatever its data bits are (R105). -/
theorem decode_timeout_hunt {v : View} (d : Byte) (h : v.st = .hunt) :
    decode v (.sym (0x100 ||| symOfByte d)) = .ok .huntTimeout := by
  rw [decode_sym_hunt _ h, decodeHunt, if_pos (symIsTimeout_ignores_data d)]

/-- A Timeout read in LEN, whatever its data bits are (R108). -/
theorem decode_timeout_len {v : View} (d : Byte) (h : v.st = .len) :
    decode v (.sym (0x100 ||| symOfByte d)) = .ok .lenTimeout := by
  rw [decode_sym_len _ h, decodeLen, if_pos (symIsTimeout_ignores_data d)]

/-- A Timeout is the symbol of its data bits with bit 8 set. -/
theorem symbol_of_timeout : ∀ x : SymbolWord, symIsTimeout x = true → x = 0x100 ||| symOfByte (symData x) := by
  decide

/-- A symbol is a byte or a Timeout with its data bits (R60). -/
theorem symbol_cases (x : SymbolWord) : (∃ b, x = symOfByte b) ∨ ∃ d, x = 0x100 ||| symOfByte d := by
  cases hx : symIsTimeout x with
  | false => exact .inl ⟨_, symbol_of_byte x hx⟩
  | true => exact .inr ⟨_, symbol_of_timeout x hx⟩

/-- The control pairs with the bit `rst` are RESET in every state (R116). -/
theorem decode_ctrl_of_rst (v : View) (p : BitVec 2) (h : p.getLsbD 1 = true) : decode v (.ctrl p) = .ok .reset := by
  rw [decode, decodeCtrl, if_pos h]

/-- The control pair 01 (R114, R115). -/
theorem decode_ctrl_stop (v : View) :
    decode v (.ctrl 0b01) = .ok (if v.st = .stopped then .stoppedHold else .stop) := by
  simp [decode, decodeCtrl, apply_ite Except.ok]

theorem decode_ctrl_stop_of_stopped {v : View} (h : v.st = .stopped) : decode v (.ctrl 0b01) = .ok .stoppedHold := by
  rw [decode_ctrl_stop, if_pos h]

theorem decode_ctrl_stop_of_ne {v : View} (h : v.st ≠ .stopped) : decode v (.ctrl 0b01) = .ok .stop := by
  rw [decode_ctrl_stop, if_neg h]

/-- A control pair that is not 00 is 01 or has the bit `rst`. -/
theorem ctrl_pair_cases : ∀ p : BitVec 2, p ≠ 0 → p = 0b01 ∨ p.getLsbD 1 = true := by decide

/-- A byte read in BODY selects a row exactly if `idx` is at most `len_r` (R109 to R111). -/
theorem decode_byte_body {v : View} (b : Byte) (h : v.st = .body) :
    decode v (.sym (symOfByte b)) =
      if v.idx < v.lenR then .ok (.bodyByte b)
      else if v.idx = v.lenR then .ok (if v.acc = b then .bodyLastOk b else .bodyLastBad b)
      else .error .noRowForIndex := by
  split_ifs with hlt heq hacc
  · exact decode_byte_body_of_lt b h hlt
  · rw [decode_byte_body_of_eq b h heq, if_pos hacc]
  · rw [decode_byte_body_of_eq b h heq, if_neg hacc]
  · simp [decode_sym_body _ h, decodeBody, hlt, heq]

theorem selectedIn_bodyByte {v : View} {b : Byte} :
    (Instr.bodyByte b).selectedIn v = true ↔ v.st = .body ∧ v.idx < v.lenR := by
  simp [Instr.selectedIn]

theorem selectedIn_bodyLastOk {v : View} {b : Byte} :
    (Instr.bodyLastOk b).selectedIn v = true ↔ v.st = .body ∧ v.idx = v.lenR ∧ v.acc = b := by
  simp [Instr.selectedIn, chkOk, and_assoc]

theorem selectedIn_bodyLastBad {v : View} {b : Byte} :
    (Instr.bodyLastBad b).selectedIn v = true ↔ v.st = .body ∧ v.idx = v.lenR ∧ v.acc ≠ b := by
  simp [Instr.selectedIn, chkOk, and_assoc]

/-- Every symbol selects a row, in BODY as long as `idx` is at most `len_r` (R118). -/
theorem exists_decode_sym (v : View) (x : SymbolWord) (h : v.st = .body → v.idx ≤ v.lenR) :
    ∃ i, decode v (.sym x) = .ok i := by
  cases hst : v.st with
  | hunt => exact ⟨_, decode_sym_hunt x hst⟩
  | len => exact ⟨_, decode_sym_len x hst⟩
  | stopped => exact ⟨_, decode_sym_stopped x hst⟩
  | body =>
    rcases symbol_cases x with ⟨b, rfl⟩ | ⟨d, rfl⟩
    · by_cases heq : v.idx = v.lenR
      · exact ⟨_, decode_byte_body_of_eq b hst heq⟩
      · exact ⟨_, decode_byte_body_of_lt b hst (BitVec.lt_of_le_ne (h hst) heq)⟩
    · exact ⟨_, decode_timeout_body d hst⟩

/-- Every control pair but 00 selects a row. -/
theorem exists_decode_ctrl (v : View) {p : BitVec 2} (h : p ≠ 0) : ∃ i, decode v (.ctrl p) = .ok i := by
  rcases ctrl_pair_cases p h with rfl | hr
  · exact ⟨_, decode_ctrl_stop v⟩
  · exact ⟨_, decode_ctrl_of_rst v p hr⟩

end Sys2Proof
end

section
/-! SUPPORT. Decoding the encoding of an operation, and the match of a symbol with a row of the table
(30_encoding.md R81). -/

namespace Sys2Proof

open Sys2Proof.Machine

/-- A command byte without a row of its own selects CMD_OTHER (R81). -/
theorem decodeCommand_other {c : Byte} (h0 : c ≠ 0x00) (h1 : c ≠ 0x01) (h2 : c ≠ 0x02) (h3 : c ≠ 0x03)
    (h8 : c ≠ 0x08) : decodeCommand c = .cmdOther c := by
  rw [decodeCommand, if_neg h0, if_neg h1, if_neg h2, if_neg h3, if_neg h8]

/-- The decoder gives back every well-formed operation whose row applies. -/
theorem decode_encode {i : Instr} {v : View} (hwf : i.wellFormed = true) (hsel : i.selectedIn v = true) :
    decode v (encode i) = .ok i := by
  cases i
  case huntSof => exact decode_byte_hunt 0x02 (eq_of_beq hsel)
  case huntNoiseLf => exact decode_byte_hunt 0x0A (eq_of_beq hsel)
  case huntNoiseCr => exact decode_byte_hunt 0x0D (eq_of_beq hsel)
  case huntNoise b =>
    obtain ⟨⟨hsof, hlf⟩, hcr⟩ : (b ≠ 0x02 ∧ b ≠ 0x0A) ∧ b ≠ 0x0D := by
      simpa only [Instr.wellFormed, Bool.and_eq_true, bne_iff_ne] using! hwf
    rw [encode, decode_byte_hunt b (eq_of_beq hsel), if_neg hsof, if_neg hlf, if_neg hcr]
  case huntTimeout => exact decode_timeout_hunt 0 (eq_of_beq hsel)
  case lenOk l =>
    rw [encode, decode_byte_len l (eq_of_beq hsel), if_pos ((lengthLegal_iff l).1 hwf)]
  case lenBad l =>
    have hl : ¬ (3 ≤ l.toNat ∧ l.toNat ≤ 64) := by
      rw [← lengthLegal_iff]
      simpa [Instr.wellFormed] using hwf
    rw [encode, decode_byte_len l (eq_of_beq hsel), if_neg hl]
  case lenTimeout => exact decode_timeout_len 0 (eq_of_beq hsel)
  case bodyByte b =>
    obtain ⟨hst, hlt⟩ := selectedIn_bodyByte.1 hsel
    exact decode_byte_body_of_lt b hst hlt
  case bodyLastOk b =>
    obtain ⟨hst, heq, hacc⟩ := selectedIn_bodyLastOk.1 hsel
    rw [encode, decode_byte_body_of_eq b hst heq, if_pos hacc]
  case bodyLastBad b =>
    obtain ⟨hst, heq, hacc⟩ := selectedIn_bodyLastBad.1 hsel
    rw [encode, decode_byte_body_of_eq b hst heq, if_neg hacc]
  case bodyTimeout => exact decode_timeout_body 0 (eq_of_beq hsel)
  case stoppedHold => exact decode_sym_stopped 0 (eq_of_beq hsel)
  case stop =>
    have hst : v.st ≠ .stopped := by simpa [Instr.selectedIn] using hsel
    exact decode_ctrl_stop_of_ne hst
  case cmdOther c =>
    obtain ⟨⟨⟨⟨h0, h1⟩, h2⟩, h3⟩, h8⟩ : (((c ≠ 0x00 ∧ c ≠ 0x01) ∧ c ≠ 0x02) ∧ c ≠ 0x03) ∧ c ≠ 0x08 := by
      simpa only [Instr.wellFormed, Bool.and_eq_true, bne_iff_ne] using hwf
    rw [encode, decode, decodeCommand_other h0 h1 h2 h3 h8]
  all_goals rfl

/-- The rows of format CMD apply in every state. -/
theorem selectedIn_of_encode_cmd {i : Instr} {c : Byte} (h : encode i = .cmd c) (v : View) :
    i.selectedIn v = true := by
  cases i <;> cases h <;> rfl

/-- A symbol matches a row that has this `match` and `mask` if the four tests of R81 succeed. -/
theorem symMatches_iff_of_row {i : Instr} {m k : SymbolWord} (hrow : symRow i = some (m, k)) (v : View)
    (x : SymbolWord) :
    symMatches v i x = true ↔
      x &&& k = m ∧ (symOperand i = none ∨ symOperand i = some (symData x)) ∧ i.wellFormed = true ∧
        i.selectedIn v = true := by
  simp [symMatches, hrow, and_assoc]

/-- A symbol that matches a row matches its `match` and `mask` (R81). -/
theorem exists_row_of_symMatches {v : View} {i : Instr} {x : SymbolWord} (h : symMatches v i x = true) :
    ∃ m k, symRow i = some (m, k) := by
  unfold symMatches at h
  split at h
  · cases h
  · next m k hrow => exact ⟨m, k, hrow⟩

/-- A mask of all nine bits leaves the symbol. -/
theorem mask_all (x : SymbolWord) : x &&& 0x1FF = x := BitVec.and_allOnes

/-- A symbol whose bit 8 is clear under the mask is a byte. -/
theorem byte_of_mask : ∀ x : SymbolWord, x &&& 0x100 = 0x000 → symIsTimeout x = false := by
  decide

/-- A symbol whose bit 8 is set under the mask is a Timeout. -/
theorem timeout_of_mask : ∀ x : SymbolWord, x &&& 0x100 = 0x100 → symIsTimeout x = true := by
  decide

/-- A symbol that matches a row by the table selects it. -/
theorem decode_of_symMatches {v : View} {i : Instr} {x : SymbolWord} (h : symMatches v i x = true) :
    decode v (.sym x) = .ok i := by
  obtain ⟨m, k, hrow⟩ := exists_row_of_symMatches h
  obtain ⟨hmask, hop, hwf, hsel⟩ := (symMatches_iff_of_row hrow v x).1 h
  cases i
  case huntSof | huntNoiseLf | huntNoiseCr =>
    cases hrow
    rw [mask_all] at hmask
    rw [hmask]
    exact decode_encode hwf hsel
  case huntNoise b | lenOk b | lenBad b | bodyByte b | bodyLastOk b | bodyLastBad b =>
    cases hrow
    obtain rfl : b = symData x := by simpa [symOperand] using hop
    rw [symbol_of_byte x (byte_of_mask x hmask), symData_symOfByte]
    exact decode_encode hwf hsel
  case huntTimeout =>
    cases hrow
    rw [symbol_of_timeout x (timeout_of_mask x hmask)]
    exact decode_timeout_hunt _ (eq_of_beq hsel)
  case lenTimeout =>
    cases hrow
    rw [symbol_of_timeout x (timeout_of_mask x hmask)]
    exact decode_timeout_len _ (eq_of_beq hsel)
  case bodyTimeout =>
    cases hrow
    rw [symbol_of_timeout x (timeout_of_mask x hmask)]
    exact decode_timeout_body _ (eq_of_beq hsel)
  case stoppedHold => exact decode_sym_stopped x (eq_of_beq hsel)
  all_goals cases hrow

/-- A byte matches a row for bytes that has it as operand, if the row's constraints hold. -/
theorem symMatches_byte {v : View} {i : Instr} {b : Byte} (hrow : symRow i = some (0x000, 0x100))
    (hop : symOperand i = some b) (hwf : i.wellFormed = true) (hsel : i.selectedIn v = true) :
    symMatches v i (symOfByte b) = true :=
  (symMatches_iff_of_row hrow v _).2
    ⟨(Laws.symOfByte_matches b).1, .inr (by rw [hop, symData_symOfByte]), hwf, hsel⟩

/-- A Timeout matches a row for Timeouts, if the row's constraint holds. -/
theorem symMatches_timeout {v : View} {i : Instr} (d : Byte) (hrow : symRow i = some (0x100, 0x100))
    (hop : symOperand i = none) (hwf : i.wellFormed = true) (hsel : i.selectedIn v = true) :
    symMatches v i (0x100 ||| symOfByte d) = true :=
  (symMatches_iff_of_row hrow v _).2
    ⟨(masks_of_timeout_symbol _ (symIsTimeout_ignores_data d)).1, .inl hop, hwf, hsel⟩

/-- A symbol matches the row that it selects. -/
theorem symMatches_of_decode {v : View} {i : Instr} {x : SymbolWord} (h : decode v (.sym x) = .ok i) :
    symMatches v i x = true := by
  cases hst : v.st with
  | stopped =>
    rw [decode_sym_stopped x hst] at h
    cases h
    exact (symMatches_iff_of_row rfl v x).2 ⟨BitVec.and_zero, .inl rfl, rfl, beq_iff_eq.2 hst⟩
  | hunt =>
    rcases symbol_cases x with ⟨b, rfl⟩ | ⟨d, rfl⟩
    · rw [decode_byte_hunt b hst] at h
      split_ifs at h with hsof hlf hcr <;> cases h
      · subst hsof
        exact (symMatches_iff_of_row rfl v _).2 ⟨by decide, .inl rfl, rfl, beq_iff_eq.2 hst⟩
      · subst hlf
        exact (symMatches_iff_of_row rfl v _).2 ⟨by decide, .inl rfl, rfl, beq_iff_eq.2 hst⟩
      · subst hcr
        exact (symMatches_iff_of_row rfl v _).2 ⟨by decide, .inl rfl, rfl, beq_iff_eq.2 hst⟩
      · exact symMatches_byte rfl rfl
          (by simp only [Instr.wellFormed, Bool.and_eq_true, bne_iff_ne]; exact ⟨⟨hsof, hlf⟩, hcr⟩) (beq_iff_eq.2 hst)
    · rw [decode_timeout_hunt d hst] at h
      cases h
      exact symMatches_timeout d rfl rfl rfl (beq_iff_eq.2 hst)
  | len =>
    rcases symbol_cases x with ⟨l, rfl⟩ | ⟨d, rfl⟩
    · rw [decode_byte_len l hst] at h
      split_ifs at h with hl <;> rw [← lengthLegal_iff] at hl <;> cases h
      · exact symMatches_byte rfl rfl hl (beq_iff_eq.2 hst)
      · exact symMatches_byte rfl rfl (by simp [Instr.wellFormed, hl]) (beq_iff_eq.2 hst)
    · rw [decode_timeout_len d hst] at h
      cases h
      exact symMatches_timeout d rfl rfl rfl (beq_iff_eq.2 hst)
  | body =>
    rcases symbol_cases x with ⟨b, rfl⟩ | ⟨d, rfl⟩
    · rw [decode_byte_body b hst] at h
      split_ifs at h with hlt heq hacc <;> cases h
      · exact symMatches_byte rfl rfl rfl (selectedIn_bodyByte.2 ⟨hst, hlt⟩)
      · exact symMatches_byte rfl rfl rfl (selectedIn_bodyLastOk.2 ⟨hst, heq, hacc⟩)
      · exact symMatches_byte rfl rfl rfl (selectedIn_bodyLastBad.2 ⟨hst, heq, hacc⟩)
    · rw [decode_timeout_body d hst] at h
      cases h
      exact symMatches_timeout d rfl rfl rfl (beq_iff_eq.2 hst)

end Sys2Proof
end

section
/-! PROOFS. The decoder against the encoder and the opcode table (30_encoding.md R81, 41_synchronizer.md R118). -/

namespace Sys2Proof.Proofs

open Sys2Proof Sys2Proof.Machine

/-- Settles O30, by `decode_encode`, which goes through the rows. -/
theorem decodeEncodeRoundTrip : Obligations.DecodeEncodeRoundTrip := by
  unfold Obligations.DecodeEncodeRoundTrip
  exact fun i v => decode_encode

/-- Settles O31. A symbol matches exactly the row it selects, so a second match is the decoder's own answer. -/
theorem everySymbolHasExactlyOneRow : Obligations.EverySymbolHasExactlyOneRow := by
  unfold Obligations.EverySymbolHasExactlyOneRow
  intro v x hidx
  obtain ⟨i, hi⟩ := exists_decode_sym v x hidx
  refine ⟨i, hi, symMatches_of_decode hi, fun j hj => ?_⟩
  have hj : decode v (.sym x) = .ok j := decode_of_symMatches hj
  exact Except.ok.inj (hj.symm.trans hi)

/-- The row of a command byte is well formed and its word is that byte. -/
theorem decodeCommand_row (c : Byte) : (decodeCommand c).wellFormed = true ∧ encode (decodeCommand c) = .cmd c := by
  revert c
  decide

/-- Settles O32. A row of format CMD applies in every state, so decoding its word gives it back. -/
theorem everyCommandHasExactlyOneRow : Obligations.EveryCommandHasExactlyOneRow := by
  unfold Obligations.EveryCommandHasExactlyOneRow
  intro v c
  obtain ⟨hwf, henc⟩ := decodeCommand_row c
  refine ⟨decodeCommand c, rfl, hwf, henc, fun j hj hjc => ?_⟩
  have hdec : decode v (.cmd c) = .ok j := hjc ▸ decode_encode hj (selectedIn_of_encode_cmd hjc v)
  exact (Except.ok.inj hdec).symm

/-- Settles O33, row by row: every word is a literal, and so is the view. -/
theorem tableWordsDecode : Obligations.TableWordsDecode := by
  unfold Obligations.TableWordsDecode
  refine ⟨?huntSof, ?huntNoise, ?lenOk, ?lenBad, ?bodyLastOk, ?bodyLastBad, ?bodyTimeout, ?stopped, ?command⟩
  case huntSof => exact decode_byte_hunt 0x02 rfl
  case huntNoise => exact decode_byte_hunt 0x41 rfl
  case lenOk => exact decode_byte_len 64 rfl
  case lenBad => exact decode_byte_len 65 rfl
  case bodyLastOk => exact decode_byte_body_of_eq 0x15 rfl rfl
  case bodyLastBad => exact decode_byte_body_of_eq 0x15 rfl rfl
  case bodyTimeout => exact decode_timeout_body 0 rfl
  case stopped => exact decode_ctrl_stop _
  case command => rfl

end Sys2Proof.Proofs
end

section
/-! SUPPORT. The sum of a sequence (40_checksum.md R85), what `compose` builds (43_codec.md R130) and what the
composer sends (R134). -/

namespace Sys2Proof.Machine

/-- The checksum does not depend on the order of the bytes (R85). -/
theorem sum8_perm {s t : List Byte} (h : s.Perm t) : sum8 s = sum8 t := by
  rw [sum8, sum8, (h.map BitVec.toNat).sum_eq]

/-- The checksum of two parts is the sum of the parts' checksums (R85). -/
theorem sum8_append (s t : List Byte) : sum8 (s ++ t) = add8 (sum8 s) (sum8 t) := by
  apply BitVec.eq_of_toNat_eq
  simp [sum8_toNat, add8_toNat]

/-- Adding byte by byte to an accumulator adds the checksum (R85, R88). -/
theorem foldl_accAdded (s : List Byte) (a : Byte) : s.foldl accAdded a = add8 a (sum8 s) := by
  induction s generalizing a with
  | nil => simp [add8]
  | cons b s ih => rw [List.foldl_cons, ih, sum8_cons, accAdded_eq, add8, add8, add8, add8, BitVec.add_assoc]

/-- Replacing one byte by a different one changes the checksum (R91). -/
theorem sum8_set_ne {s : List Byte} {i : Nat} {b : Byte} (hi : i < s.length) (hb : s[i] ≠ b) :
    sum8 (s.set i b) ≠ sum8 s := by
  have hs : sum8 s = add8 (sum8 (s.take i)) (add8 s[i] (sum8 (s.drop (i + 1)))) := by
    rw [← sum8_cons, ← List.drop_eq_getElem_cons hi, ← sum8_append, List.take_append_drop]
  have hset : sum8 (s.set i b) = add8 (sum8 (s.take i)) (add8 b (sum8 (s.drop (i + 1)))) := by
    rw [← sum8_cons, ← sum8_append, List.set_eq_take_append_cons_drop, if_pos hi]
  rw [hs, hset]
  simpa [add8] using hb.symm

/-- What the composer has sent and summed after the bytes `bs` (R134). -/
theorem composerSend_eq (bs : List Byte) (a : Byte) (sent : List Byte) :
    composerSend bs (a, sent) = (bs.foldl accAdded a, sent ++ bs) := by
  induction bs generalizing a sent with
  | nil => simp [composerSend]
  | cons b bs ih => simp [composerSend, ih]

/-- The composer sends the frame and ends with its checksum in the accumulator (R134). -/
theorem composerRun_eq (c : Byte) (p : List Byte) :
    composerRun c p = (sum8 (composeBody c p), composeBody c p ++ [sum8 (composeBody c p)]) := by
  have hsum : (BitVec.ofNat 8 (p.length + 3) :: c :: p).foldl accAdded accLoaded = sum8 (composeBody c p) := by
    rw [foldl_accAdded, accLoaded_eq, ← sum8_cons]
    rfl
  simp only [composerRun, composerSend_eq, hsum]
  rfl

theorem composeBody_length (c : Byte) (p : List Byte) : (composeBody c p).length = p.length + 3 := by
  simp [composeBody]

/-- `compose` of at most 61 payload bytes (R130). -/
theorem composeFrame_of_le {c : Byte} {p : List Byte} (h : p.length ≤ 61) :
    composeFrame c p = .frame (composeBody c p ++ [sum8 (composeBody c p)]) := by
  rw [composeFrame, Config.frameMax, if_neg (by omega)]

/-- `compose` of 62 payload bytes and more (R131). -/
theorem composeFrame_of_gt {c : Byte} {p : List Byte} (h : 62 ≤ p.length) :
    composeFrame c p = .tooLarge p.length := by
  rw [composeFrame, Config.frameMax, if_pos (by omega)]

/-- The frames that `compose` builds (R130, R131). -/
theorem composeFrame_eq_frame_iff {c : Byte} {p f : List Byte} :
    composeFrame c p = .frame f ↔ p.length ≤ 61 ∧ f = composeBody c p ++ [sum8 (composeBody c p)] := by
  by_cases h : p.length ≤ 61
  · simp [composeFrame_of_le h, h, eq_comm]
  · simp [composeFrame_of_gt (by omega : 62 ≤ p.length), h]

/-- VALID of a sequence with its last byte and its first three apart (R135). -/
theorem validFrame_parts_iff (b0 b1 c k : Byte) (p : List Byte) :
    validFrame ([b0, b1, c] ++ p ++ [k]) = true ↔
      p.length ≤ 61 ∧ b0 = 0x02 ∧ b1 = BitVec.ofNat 8 (p.length + 3) ∧ k = sum8 ([b0, b1, c] ++ p) := by
  have hlen : ([b0, b1, c] ++ p ++ [k]).length = p.length + 4 := by simp
  have hbody : ([b0, b1, c] ++ p).length = p.length + 3 := by simp
  have hlast : ([b0, b1, c] ++ p ++ [k])[p.length + 3]? = some k := hbody ▸ List.getElem?_concat_length
  have htake : ([b0, b1, c] ++ p ++ [k]).take (p.length + 3) = [b0, b1, c] ++ p := hbody ▸ List.take_left
  rw [validFrame_iff, hlen, Nat.add_sub_assoc (by decide), hlast, htake]
  simp

/-- A sequence of four bytes or more has three first bytes, and a last one after them. -/
theorem exists_parts_of_length {f : List Byte} (h : 4 ≤ f.length) :
    ∃ b0 b1 c p k, f = [b0, b1, c] ++ p ++ [k] := by
  match f, h with
  | b0 :: b1 :: c :: x :: r, _ =>
    obtain hnil | ⟨p, k, hp⟩ := List.eq_nil_or_concat (x :: r)
    · cases hnil
    · exact ⟨b0, b1, c, p, k, by simp [hp]⟩

/-- The valid frames are those that `compose` builds (R130, R135). -/
theorem validFrame_iff_composed (f : List Byte) :
    validFrame f = true ↔ ∃ c p, p.length ≤ 61 ∧ f = composeBody c p ++ [sum8 (composeBody c p)] := by
  constructor
  · intro hf
    obtain ⟨b0, b1, c, p, k, rfl⟩ := exists_parts_of_length ((validFrame_iff f).1 hf).1
    obtain ⟨hp, rfl, rfl, rfl⟩ := (validFrame_parts_iff b0 b1 c k p).1 hf
    exact ⟨c, p, hp, rfl⟩
  · rintro ⟨c, p, hp, rfl⟩
    exact (validFrame_parts_iff _ _ c _ p).2 ⟨hp, rfl, rfl, rfl⟩

/-- COMPOSE of at most 61 payload bytes (R130, R134). -/
theorem exec_compose_of_le {c : Byte} {p : List Byte} (h : p.length ≤ 61) (s : State) :
    exec (.compose c p) s = .next { s with
      out := [],
      res := some (.frame (composeBody c p ++ [sum8 (composeBody c p)])),
      txAcc := sum8 (composeBody c p),
      tx := composeBody c p ++ [sum8 (composeBody c p)] } := by
  rw [exec, execCompose, composeFrame_of_le h, composerRun_eq]
  rfl

/-- COMPOSE of 62 payload bytes and more (R131). -/
theorem exec_compose_of_gt {c : Byte} {p : List Byte} (h : 62 ≤ p.length) (s : State) :
    exec (.compose c p) s = .next { s with out := [], res := some (.frameTooLarge p.length), tx := [] } := by
  rw [exec, execCompose, composeFrame_of_gt h]
  rfl

end Sys2Proof.Machine
end

section
/-! PROOFS. The checksum, the codec and the composer (40_checksum.md R85, R91; 43_codec.md R130 to R137). -/

namespace Sys2Proof.Proofs

open Sys2Proof Sys2Proof.Machine

/-- Settles O17, by induction on the sequence for the accumulator's running value. -/
theorem checksumIsOrderFree : Obligations.ChecksumIsOrderFree := by
  unfold Obligations.ChecksumIsOrderFree
  refine ⟨fun s t => sum8_perm, sum8_append, foldl_accAdded, fun s => ?_, rfl⟩
  rw [sum8_cons, add8]
  exact BitVec.zero_add _

/-- Settles O24. The composer's run sends what `compose` answers. -/
theorem composeBuildsAndSendsTheFrame : Obligations.ComposeBuildsAndSendsTheFrame := by
  unfold Obligations.ComposeBuildsAndSendsTheFrame
  exact fun c p s => ⟨fun h => exec_compose_of_le h s, fun h => ⟨exec_compose_of_gt h s, rfl⟩⟩

/-- Settles O27. A composed frame has at least 7 bytes when there are three payload bytes, and its last byte is the
sum. -/
theorem composeParseRoundTrip : Obligations.ComposeParseRoundTrip := by
  unfold Obligations.ComposeParseRoundTrip
  intro c p hp
  refine ⟨_, composeFrame_of_le hp, (validFrame_iff_composed _).2 ⟨c, p, hp, rfl⟩, rfl, by simp [composeBody], ?_⟩
  rintro x y z r rfl
  rw [parseFrame_concat _ (by simp [composeBody_length]), if_pos rfl]
  rfl

/-- Settles O28, through the parts of a sequence that the tests of `valid` read. -/
theorem validFramesAreTheComposedOnes : Obligations.ValidFramesAreTheComposedOnes := by
  unfold Obligations.ValidFramesAreTheComposedOnes
  intro f
  simp only [validFrame_iff_composed, composeFrame_eq_frame_iff]

/-- Settles O29. The last byte is compared with the sum of the others, and a changed byte changes one side only. -/
theorem singleByteChangeIsRejected : Obligations.SingleByteChangeIsRejected := by
  unfold Obligations.SingleByteChangeIsRejected
  intro c p g i b hg hp hi hb
  obtain ⟨-, rfl⟩ := composeFrame_eq_frame_iff.1 hg
  have hlen := composeBody_length c p
  rcases Nat.lt_or_ge i (composeBody c p).length with hbody | hlast
  · have hne : (composeBody c p)[i] ≠ b := by
      rwa [List.getElem?_append_left hbody, List.getElem?_eq_getElem hbody, ne_eq, Option.some_inj] at hb
    rw [List.set_append_left _ _ hbody, parseFrame_concat _ (by rw [List.length_set]; omega),
      if_neg (sum8_set_ne hbody hne)]
  · obtain rfl : i = (composeBody c p).length := by
      rw [List.length_append, List.length_singleton] at hi
      omega
    have hne : sum8 (composeBody c p) ≠ b := by
      rwa [List.getElem?_concat_length, ne_eq, Option.some_inj] at hb
    rw [List.set_append_right _ _ hlast, Nat.sub_self, List.set_cons_zero, parseFrame_concat _ (by omega), if_neg hne]

end Sys2Proof.Proofs
end

section
/-! SUPPORT. What an operation that an Event selects does to the state, said once: the rows that accept a byte of a
frame and the control events each with their next state, the rows that discard by kind. -/

namespace Sys2Proof.Machine

/-- BODY_LAST_OK (R110), with `len_r` in its range (R23). -/
theorem exec_bodyLastOk (b : Byte) (s : State) (h : s.lenR.toNat ≤ 64) :
    exec (.bodyLastOk b) s = .next { s with
      st := .hunt, idx := 0, lenR := 0, acc := 0x00, buf := Memory.write s.buf s.lenR.toNat b,
      rx := s.rx.tail, out := handoffOutputs s.drive.qReady (Memory.frame s.buf s.lenR.toNat ++ [b]),
      res := none, tx := [] } := by
  rw [exec, execBodyLastOk, storeByte_within h]
  rfl

/-- BODY_BYTE outside the buffer (log entry 17). -/
theorem exec_bodyByte_outside (b : Byte) {s : State} (h : 65 ≤ s.idx.toNat) :
    exec (.bodyByte b) s = .fault (.bufferAddress s.idx.toNat) := by
  rw [exec, execBodyByte, storeByte_outside h]

/-- BODY_LAST_OK outside the buffer (log entry 17). -/
theorem exec_bodyLastOk_outside (b : Byte) {s : State} (h : 65 ≤ s.lenR.toNat) :
    exec (.bodyLastOk b) s = .fault (.bufferAddress s.lenR.toNat) := by
  rw [exec, execBodyLastOk, storeByte_outside h]

/-- The rows that take a symbol from the stream: all that an Event selects but the control events and the hold in
STOPPED (R114 to R116). -/
def TakesSymbol (i : Instr) : Prop := i ≠ .reset ∧ i ≠ .stop ∧ i ≠ .stoppedHold

/-- The next states that an operation selected by an Event can give. -/
inductive RowEffect (s : State) : Instr → State → Prop
  /-- R102. -/
  | huntSof : RowEffect s .huntSof { s.low.consume with
      st := .len, idx := 1, acc := 0x02, buf := Memory.write s.buf 0 0x02 }
  /-- R106. -/
  | lenOk (l : Byte) (hl : 3 ≤ l.toNat ∧ l.toNat ≤ 64) : RowEffect s (.lenOk l) { s.low.consume with
      st := .body, idx := 2, lenR := l.setWidth 7, acc := s.acc + l, buf := Memory.write s.buf 1 l }
  /-- R109. -/
  | bodyByte (b : Byte) (hidx : s.idx.toNat ≤ 64) : RowEffect s (.bodyByte b) { s.low.consume with
      idx := s.idx + 1, acc := s.acc + b, buf := Memory.write s.buf s.idx.toNat b }
  /-- R110. -/
  | bodyLastOk (b : Byte) (hlen : s.lenR.toNat ≤ 64) : RowEffect s (.bodyLastOk b) { s.low.consume.enterHunt with
      buf := Memory.write s.buf s.lenR.toNat b,
      out := handoffOutputs s.drive.qReady (Memory.frame s.buf s.lenR.toNat ++ [b]) }
  /-- A symbol passes and no register changes, with one discard at most (R103 to R105). -/
  | pass (i : Instr) (o : List Output) (hi : TakesSymbol i) (ho : o = [] ∨ ∃ d, o = [.discard d]) :
      RowEffect s i { s.low.consume with out := o }
  /-- A frame is given up with one discard (R107, R108, R111, R112). -/
  | raise (i : Instr) (d : Discard) (hi : TakesSymbol i) : RowEffect s i (s.low.consume.raise d)
  /-- R116. -/
  | reset : RowEffect s .reset s.low.enterHunt
  /-- R114. -/
  | stop : RowEffect s .stop { s.low with out := stopOutputs s, st := .stopped, idx := 0, lenR := 0, acc := 0x00 }
  /-- R115. -/
  | stoppedHold : RowEffect s .stoppedHold s.low

/-- Whatever an Event selects has one of these effects if it answers a next state. -/
theorem rowEffect_of_exec {i : Instr} {s t : State} (hi : fetchable i = true) (h : exec i s = .next t) :
    RowEffect s i t := by
  cases i
  case huntSof => exact execHuntSof_next h ▸ .huntSof
  case lenOk l => exact execLenOk_next h ▸ .lenOk l ((lengthLegal_iff l).1 hi)
  case bodyByte b =>
    obtain ⟨hidx, rfl⟩ := execBodyByte_next h
    exact .bodyByte b hidx
  case bodyLastOk b =>
    obtain ⟨hlen, rfl⟩ := execBodyLastOk_next h
    exact .bodyLastOk b hlen
  case huntNoiseLf | huntNoiseCr | huntNoise =>
    cases h
    exact .pass _ _ ⟨nofun, nofun, nofun⟩ (.inr ⟨_, rfl⟩)
  case huntTimeout =>
    cases h
    exact .pass _ _ ⟨nofun, nofun, nofun⟩ (.inl rfl)
  case lenBad | lenTimeout | bodyLastBad | bodyTimeout =>
    cases h
    exact .raise _ _ ⟨nofun, nofun, nofun⟩
  case reset => cases h; exact .reset
  case stop => cases h; exact .stop
  case stoppedHold => cases h; exact .stoppedHold
  all_goals cases hi

/-- A step that answers a next state had no Event, or the effect of the operation that its word decodes to, whose row
applies in the state; in both cases the input passes and a caller is answered. -/
theorem step_effect {s t : State} (h : step s = .next t) :
    ∃ u, callerPart s = .next u ∧
      ((fetch s = none ∧ t = (s.low.answeredBy u).advance) ∨
      ∃ w i p, fetch s = some w ∧ decode s.view w = .ok i ∧ i.selectedIn s.view = true ∧ RowEffect s i p ∧
        t = (p.answeredBy u).advance) := by
  obtain ⟨u, hu, hstep⟩ := step_cases h
  refine ⟨u, hu, hstep.imp_right ?_⟩
  rintro ⟨w, i, p, hf, hd, he, rfl⟩
  obtain ⟨hsel, hi⟩ := selectedIn_of_fetch hf hd
  exact ⟨w, i, p, hf, hd, hsel, rowEffect_of_exec hi he, rfl⟩

/-- An operation that accepts no byte of a frame leaves the buffer as it was (R25). -/
theorem RowEffect.buf_of_not_accepting {s t : State} {i : Instr} (h : RowEffect s i t)
    (hi : i ≠ .huntSof ∧ ∀ b : Byte, i ≠ .lenOk b ∧ i ≠ .bodyByte b ∧ i ≠ .bodyLastOk b) : t.buf = s.buf := by
  obtain ⟨hsof, hbyte⟩ := hi
  cases h with
  | huntSof => exact absurd rfl hsof
  | lenOk l => exact absurd rfl (hbyte l).1
  | bodyByte b =>
    obtain ⟨-, hne, -⟩ := hbyte b
    exact absurd rfl hne
  | bodyLastOk b =>
    obtain ⟨-, -, hne⟩ := hbyte b
    exact absurd rfl hne
  | pass | raise | reset | stop | stoppedHold => rfl

/-- What is put out: nothing, one discard, or the hand-off of BODY_LAST_OK. -/
theorem RowEffect.out_cases {s t : State} {i : Instr} (h : RowEffect s i t) :
    t.out = [] ∨ (∃ d, t.out = [.discard d]) ∨
      ∃ b, i = .bodyLastOk b ∧ s.lenR.toNat ≤ 64 ∧
        t.out = handoffOutputs s.drive.qReady (Memory.frame s.buf s.lenR.toNat ++ [b]) := by
  cases h with
  | huntSof | lenOk | bodyByte | reset | stoppedHold => exact .inl rfl
  | bodyLastOk b hlen => exact .inr (.inr ⟨b, rfl, hlen, rfl⟩)
  | pass _ o hi ho => exact ho.imp_right .inl
  | raise _ d => exact .inr (.inl ⟨d, rfl⟩)
  | stop =>
    by_cases hst : s.st = .len ∨ s.st = .body
    · exact .inr (.inl ⟨.stopPartial s.idx, if_pos hst⟩)
    · exact .inl (if_neg hst)

/-- A row that takes a symbol takes the head of the stream, and no other row touches the stream (R172). -/
theorem RowEffect.rx_of_takesSymbol {s t : State} {i : Instr} (h : RowEffect s i t) (hi : TakesSymbol i) :
    t.rx = s.rx.tail := by
  obtain ⟨hreset, hstop, hhold⟩ := hi
  cases h with
  | huntSof | lenOk | bodyByte | bodyLastOk | pass | raise => rfl
  | reset => exact absurd rfl hreset
  | stop => exact absurd rfl hstop
  | stoppedHold => exact absurd rfl hhold

theorem RowEffect.rx_of_not_takesSymbol {s t : State} {i : Instr} (h : RowEffect s i t) (hi : ¬ TakesSymbol i) :
    t.rx = s.rx := by
  cases h with
  | huntSof | lenOk | bodyByte | bodyLastOk => exact absurd ⟨nofun, nofun, nofun⟩ hi
  | pass _ o htakes ho | raise _ d htakes => exact absurd htakes hi
  | reset | stop | stoppedHold => rfl

/-- No operation that an Event selects takes an input: the step does. -/
theorem RowEffect.inputs {s t : State} {i : Instr} (h : RowEffect s i t) : t.inputs = s.inputs := by
  cases h <;> rfl

end Sys2Proof.Machine
end

section
/-! SUPPORT. The legal states (10_state.md R35) by parser state, and that every operation an Event selects keeps
them. -/

namespace Sys2Proof.Machine

/-- What R35 says of BODY, its clauses named. -/
structure State.InBody (s : State) : Prop where
  three_le_lenR : 3 ≤ s.lenR.toNat
  lenR_le : s.lenR.toNat ≤ 64
  two_le_idx : 2 ≤ s.idx.toNat
  idx_le_lenR : s.idx.toNat ≤ s.lenR.toNat
  marker : Memory.read s.buf 0 = some 0x02
  length : Memory.read s.buf 1 = some (s.lenR.setWidth 8)
  written : ∀ a, a < s.idx.toNat → (Memory.read s.buf a).isSome
  acc_eq : s.acc = sum8 (Memory.frame s.buf s.idx.toNat)

theorem inBody_iff (s : State) :
    s.InBody ↔ 3 ≤ s.lenR.toNat ∧ s.lenR.toNat ≤ 64 ∧ 2 ≤ s.idx.toNat ∧ s.idx.toNat ≤ s.lenR.toNat ∧
      Memory.read s.buf 0 = some 0x02 ∧ Memory.read s.buf 1 = some (s.lenR.setWidth 8) ∧
      (∀ a, a < s.idx.toNat → (Memory.read s.buf a).isSome) ∧ s.acc = sum8 (Memory.frame s.buf s.idx.toNat) :=
  ⟨fun ⟨h1, h2, h3, h4, h5, h6, h7, h8⟩ => ⟨h1, h2, h3, h4, h5, h6, h7, h8⟩,
    fun ⟨h1, h2, h3, h4, h5, h6, h7, h8⟩ => ⟨h1, h2, h3, h4, h5, h6, h7, h8⟩⟩

theorem legal_hunt_iff {s : State} (h : s.st = .hunt) :
    s.Legal ↔ Memory.wf s.buf = true ∧ s.idx = 0 ∧ s.lenR = 0 ∧ s.acc = 0 := by
  simp [State.Legal, h]

theorem legal_stopped_iff {s : State} (h : s.st = .stopped) :
    s.Legal ↔ Memory.wf s.buf = true ∧ s.idx = 0 ∧ s.lenR = 0 ∧ s.acc = 0 := by
  simp [State.Legal, h]

theorem legal_len_iff {s : State} (h : s.st = .len) :
    s.Legal ↔ Memory.wf s.buf = true ∧ s.idx = 1 ∧ s.lenR = 0 ∧ s.acc = 0x02 ∧ Memory.read s.buf 0 = some 0x02 := by
  simp [State.Legal, h]

theorem legal_body_iff {s : State} (h : s.st = .body) : s.Legal ↔ Memory.wf s.buf = true ∧ s.InBody := by
  simp [State.Legal, h, inBody_iff]

/-- The low seven bits of a legal length, widened again, are the length. -/
theorem setWidth_seven_eight {l : Byte} (h : l.toNat ≤ 64) : (l.setWidth 7).setWidth 8 = l := by
  apply BitVec.eq_of_toNat_eq
  rw [BitVec.toNat_setWidth, toNat_setWidth_seven h]
  exact Nat.mod_eq_of_lt l.isLt

/-- LEN_OK brings a legal state in LEN to the first legal state in BODY (R106). -/
theorem inBody_lenOk {s : State} {l : Byte} (hmin : 3 ≤ l.toNat) (hmax : l.toNat ≤ 64) (hacc : s.acc = 0x02)
    (hmarker : Memory.read s.buf 0 = some 0x02) :
    State.InBody { s.low.consume with
      st := .body, idx := 2, lenR := l.setWidth 7, acc := s.acc + l, buf := Memory.write s.buf 1 l } where
  three_le_lenR := (toNat_setWidth_seven hmax).symm ▸ hmin
  lenR_le := (toNat_setWidth_seven hmax).symm ▸ hmax
  two_le_idx := Nat.le_refl 2
  idx_le_lenR := (toNat_setWidth_seven hmax).symm ▸ Nat.le_of_lt hmin
  marker := (Memory.read_write_other s.buf 1 l (by decide)).trans hmarker
  length := by rw [setWidth_seven_eight hmax, Memory.read_write_same]
  written a ha := by
    match a, ha with
    | 0, _ => simp [Memory.read_write_other, hmarker]
    | 1, _ => simp
  acc_eq := by
    change s.acc + l = sum8 (Memory.frame (Memory.write s.buf 1 l) (1 + 1))
    rw [Memory.frame_write_next, sum8_concat, Memory.frame_succ, Memory.byte_of_read hmarker, hacc]
    rfl

/-- BODY_BYTE keeps what R35 says of BODY: the byte stored at `idx` extends the bytes accepted (R109). -/
theorem State.InBody.bodyByte {s : State} (h : s.InBody) (b : Byte) (hlt : s.idx < s.lenR) :
    State.InBody { s.low.consume with
      idx := s.idx + 1, acc := s.acc + b, buf := Memory.write s.buf s.idx.toNat b } := by
  have hidx : s.idx.toNat < s.lenR.toNat := hlt
  have hsucc : (s.idx + 1).toNat = s.idx.toNat + 1 := toNat_index_succ (h.idx_le_lenR.trans h.lenR_le)
  have htwo := h.two_le_idx
  exact {
    three_le_lenR := h.three_le_lenR
    lenR_le := h.lenR_le
    two_le_idx := hsucc ▸ Nat.le_succ_of_le htwo
    idx_le_lenR := hsucc ▸ hidx
    marker := (Memory.read_write_other _ _ _ (by omega)).trans h.marker
    length := (Memory.read_write_other _ _ _ (by omega)).trans h.length
    written := fun a ha => by
      rw [Memory.read_write]
      split
      · rfl
      · exact h.written a (by have : a < s.idx.toNat + 1 := hsucc ▸ ha; omega)
    acc_eq := by
      change s.acc + b = sum8 (Memory.frame _ (s.idx + 1).toNat)
      rw [hsucc, Memory.frame_write_next, sum8_concat, ← h.acc_eq, add8] }

/-- A selected operation keeps the legal states (R35). -/
theorem RowEffect.legal {s t : State} {i : Instr} (h : RowEffect s i t) (hs : s.Legal)
    (hsel : i.selectedIn s.view = true) : t.Legal := by
  have hwf : Memory.wf s.buf = true := hs.1
  cases h with
  | huntSof =>
    have hst : s.st = .hunt := eq_of_beq hsel
    obtain ⟨-, -, hlenR, -⟩ := (legal_hunt_iff hst).1 hs
    exact (legal_len_iff rfl).2
      ⟨Memory.wf_write _ 0 _ hwf (by decide), rfl, hlenR, rfl, Memory.read_write_same _ _ _⟩
  | lenOk l hl =>
    have hst : s.st = .len := eq_of_beq hsel
    obtain ⟨-, -, -, hacc, hmarker⟩ := (legal_len_iff hst).1 hs
    exact (legal_body_iff rfl).2
      ⟨Memory.wf_write _ 1 _ hwf (by decide), inBody_lenOk hl.1 hl.2 hacc hmarker⟩
  | bodyByte b hidx =>
    obtain ⟨hst, hlt⟩ := selectedIn_bodyByte.1 hsel
    obtain ⟨-, hbody⟩ := (legal_body_iff hst).1 hs
    exact (legal_body_iff (by exact hst)).2 ⟨Memory.wf_write _ _ _ hwf (Nat.lt_succ_of_le hidx), hbody.bodyByte b hlt⟩
  | bodyLastOk b hlen =>
    exact (legal_hunt_iff rfl).2 ⟨Memory.wf_write _ _ _ hwf (Nat.lt_succ_of_le hlen), rfl, rfl, rfl⟩
  | pass => exact hs
  | raise => exact (legal_hunt_iff rfl).2 ⟨hwf, rfl, rfl, rfl⟩
  | reset => exact (legal_hunt_iff rfl).2 ⟨hwf, rfl, rfl, rfl⟩
  | stop => exact (legal_stopped_iff rfl).2 ⟨hwf, rfl, rfl, rfl⟩
  | stoppedHold => exact hs

/-- The invariants read the parser only, so passing the input and answering a caller keep them. -/
theorem legal_answeredBy_advance {p u : State} (h : p.Legal) : (p.answeredBy u).advance.Legal := h

/-- Every step from a legal state ends in a legal state (R35). -/
theorem State.Legal.of_step {s t : State} (hs : s.Legal) (h : step s = .next t) : t.Legal := by
  obtain ⟨u, -, hstep⟩ := step_effect h
  rcases hstep with ⟨-, rfl⟩ | ⟨w, i, p, -, -, hsel, heff, rfl⟩
  · exact hs
  · exact legal_answeredBy_advance (heff.legal hs hsel)

/-- In a legal state both indices are within the buffer, and in BODY `idx` is at most `len_r` (R35). -/
theorem State.Legal.bounds {s : State} (hs : s.Legal) :
    s.idx.toNat ≤ 64 ∧ s.lenR.toNat ≤ 64 ∧ (s.st = .body → s.idx ≤ s.lenR) := by
  cases hst : s.st with
  | hunt =>
    obtain ⟨-, hidx, hlenR, -⟩ := (legal_hunt_iff hst).1 hs
    simp [hidx, hlenR]
  | len =>
    obtain ⟨-, hidx, hlenR, -⟩ := (legal_len_iff hst).1 hs
    simp [hidx, hlenR]
  | stopped =>
    obtain ⟨-, hidx, hlenR, -⟩ := (legal_stopped_iff hst).1 hs
    simp [hidx, hlenR]
  | body =>
    obtain ⟨-, hbody⟩ := (legal_body_iff hst).1 hs
    exact ⟨hbody.idx_le_lenR.trans hbody.lenR_le, hbody.lenR_le, fun _ => hbody.idx_le_lenR⟩

/-- An operation that an Event selects answers a next state when both indices are within the buffer. -/
theorem exec_fetchable_next {i : Instr} {s : State} (hi : fetchable i = true) (hidx : s.idx.toNat ≤ 64)
    (hlen : s.lenR.toNat ≤ 64) : ∃ t, exec i s = .next t := by
  cases i
  case huntSof => exact ⟨_, exec_huntSof s⟩
  case lenOk l => exact ⟨_, exec_lenOk l s⟩
  case bodyByte b => exact ⟨_, exec_bodyByte b s hidx⟩
  case bodyLastOk b => exact ⟨_, exec_bodyLastOk b s hlen⟩
  case huntNoiseLf | huntNoiseCr | huntNoise | huntTimeout => exact ⟨_, rfl⟩
  case lenBad | lenTimeout | bodyLastBad | bodyTimeout => exact ⟨_, rfl⟩
  case stoppedHold | reset | stop => exact ⟨_, rfl⟩
  all_goals cases hi

/-- What a step fetches decodes to an operation when `idx` is at most `len_r` in BODY. -/
theorem exists_decode_of_fetch {s : State} {w : OpWord} (hf : fetch s = some w) (hidx : s.st = .body → s.idx ≤ s.lenR) :
    ∃ i, decode s.view w = .ok i := by
  rcases fetch_cases hf with ⟨p, rfl, hp⟩ | ⟨x, xs, rfl, -⟩
  · exact exists_decode_ctrl s.view hp
  · exact exists_decode_sym s.view x hidx

/-- The parser's part of a step answers a next state from every legal state (R118). -/
theorem State.Legal.exists_parserPart {s : State} (hs : s.Legal) : ∃ p, parserPart s = .next p := by
  obtain ⟨hidx, hlen, hle⟩ := hs.bounds
  unfold parserPart
  cases hf : fetch s with
  | none => exact ⟨_, rfl⟩
  | some w =>
    obtain ⟨i, hd⟩ := exists_decode_of_fetch hf hle
    obtain ⟨-, hi⟩ := selectedIn_of_fetch hf hd
    simpa only [hd] using exec_fetchable_next hi hidx hlen

/-- Every step from a legal state answers a next state (R118). -/
theorem State.Legal.exists_step {s : State} (hs : s.Legal) : ∃ t, step s = .next t := by
  obtain ⟨p, hp⟩ := hs.exists_parserPart
  obtain ⟨u, -, hstep⟩ := step_of_parserPart hp
  exact ⟨_, hstep⟩

/-- Any number of steps from a legal state answers a legal state (R118). -/
theorem State.Legal.exists_runSteps {s : State} (hs : s.Legal) (k : Nat) : ∃ t, runSteps k s = .next t ∧ t.Legal := by
  induction k generalizing s with
  | zero => exact ⟨s, rfl, hs⟩
  | succ k ih =>
    obtain ⟨u, hu⟩ := hs.exists_step
    simpa only [runSteps, hu] using ih (hs.of_step hu)

/-- The reset state is legal, whatever the environment offers. -/
theorem legal_reset (rx : List SymbolWord) (ins : List Drive) :
    State.Legal { State.reset with rx := rx, inputs := ins } :=
  (legal_hunt_iff rfl).2 ⟨Memory.wf_nil, rfl, rfl, rfl⟩

/-- The location that an operation writes from a legal state is the one at `idx` (R25). -/
theorem RowEffect.read_of_ne_idx {s t : State} {i : Instr} (h : RowEffect s i t) (hs : s.Legal)
    (hsel : i.selectedIn s.view = true) {a : Nat} (ha : a ≠ s.idx.toNat) :
    Memory.read t.buf a = Memory.read s.buf a := by
  cases h with
  | huntSof =>
    obtain ⟨-, hidx, -⟩ := (legal_hunt_iff (eq_of_beq hsel)).1 hs
    exact Memory.read_write_other _ _ _ (by simpa [hidx] using ha)
  | lenOk l hl =>
    obtain ⟨-, hidx, -⟩ := (legal_len_iff (eq_of_beq hsel)).1 hs
    exact Memory.read_write_other _ _ _ (by simpa [hidx] using ha)
  | bodyByte b => exact Memory.read_write_other _ _ _ ha
  | bodyLastOk b =>
    obtain ⟨-, heq, -⟩ := selectedIn_bodyLastOk.1 hsel
    have heq : s.idx = s.lenR := heq
    exact Memory.read_write_other _ _ _ (heq ▸ ha)
  | pass | raise | reset | stop | stoppedHold => rfl

end Sys2Proof.Machine
end

section
/-! PROOFS. The legal states: they hold at reset, every step keeps them, and no run from one stops (10_state.md R35,
R25; 41_synchronizer.md R118). -/

namespace Sys2Proof.Proofs

open Sys2Proof Sys2Proof.Machine

/-- Settles O41. The registers are cleared and no location is written. -/
theorem resetIsLegal : Obligations.ResetIsLegal := legal_reset [] []

/-- Settles O42, by the effects of the operations that an Event selects. -/
theorem everyStepKeepsLegal : Obligations.EveryStepKeepsLegal := by
  unfold Obligations.EveryStepKeepsLegal
  exact fun s t hs => hs.of_step

/-- Settles O43: both indices are within the buffer and the decoder refuses nothing. -/
theorem legalStatesNeverStop : Obligations.LegalStatesNeverStop := by
  unfold Obligations.LegalStatesNeverStop
  exact fun s hs => hs.exists_step

/-- Settles O44, by induction on the number of steps: a step answers, and in a legal state again. -/
theorem legalStatesRunSafely : Obligations.LegalStatesRunSafely := by
  unfold Obligations.LegalStatesRunSafely
  have runsSafely (s : State) (hs : s.Legal) : s.RunsSafely := fun k => (hs.exists_runSteps k).imp fun _ => And.left
  exact ⟨runsSafely, fun rx ins => runsSafely _ (legal_reset rx ins)⟩

/-- Settles O45. The two stores fault outside the buffer; the bounds are those of the invariants. -/
theorem whereTheMachineStops : Obligations.WhereTheMachineStops := by
  unfold Obligations.WhereTheMachineStops
  refine ⟨fun v x hst hidx hx => ?_, fun b s => exec_bodyByte_outside b, fun b s => exec_bodyLastOk_outside b,
    fun s hs => hs.bounds⟩
  have hlt : ¬ v.idx < v.lenR := BitVec.not_lt.2 (BitVec.le_of_lt hidx)
  have hne : v.idx ≠ v.lenR := BitVec.ne_of_lt hidx ∘ Eq.symm
  rw [symbol_of_byte x hx, decode_byte_body _ hst, if_neg hlt, if_neg hne]

/-- Settles O46. From a legal state the written location is the one at `idx`; a row that accepts no byte writes
none. -/
theorem onlyTheIndexedByteIsWritten : Obligations.OnlyTheIndexedByteIsWritten := by
  unfold Obligations.OnlyTheIndexedByteIsWritten
  refine ⟨fun s t hs h a ha => ?_, fun s t h hi => ?_⟩
  · obtain ⟨u, -, hstep⟩ := step_effect h
    rcases hstep with ⟨-, rfl⟩ | ⟨w, i, p, -, -, hsel, heff, rfl⟩
    · rfl
    · exact heff.read_of_ne_idx hs hsel ha
  · obtain ⟨u, -, hstep⟩ := step_effect h
    rcases hstep with ⟨-, rfl⟩ | ⟨w, i, p, hf, hd, -, heff, rfl⟩
    · rfl
    · exact heff.buf_of_not_accepting (hi w i hf hd)

end Sys2Proof.Proofs
end

section
/-! SUPPORT. The selection of a step's Event from the inputs (41_synchronizer.md R100), and a step from its two
parts. -/

namespace Sys2Proof.Machine

theorem drive_of_inputs {s : State} {d : Drive} {r : List Drive} (h : s.inputs = d :: r) : s.drive = d := by
  rw [State.drive, h]

/-- `rst` beats `stop` and a symbol (R100). -/
theorem fetch_of_rst {s : State} (hr : s.drive.rst = true) : fetch s = some (.ctrl (ctrlPair true s.drive.stop)) := by
  simp [fetch, hr]

/-- `stop` beats a symbol (R100). -/
theorem fetch_of_stop {s : State} (hr : s.drive.rst = false) (hs : s.drive.stop = true) :
    fetch s = some (.ctrl 0b01) := by
  simp [fetch, hr, hs, ctrlPair]

/-- Without a control event the Event is the offered symbol, if there is one (R100). -/
theorem fetch_of_no_control {s : State} (hr : s.drive.rst = false) (hs : s.drive.stop = false) :
    fetch s = if s.drive.rxValid then s.rx.head?.map OpWord.sym else none := by
  simp [fetch, hr, hs]

/-- The bit `rst` of the pair that a step with `rst = 1` fetches. -/
theorem ctrlPair_rst : ∀ stop : Bool, (ctrlPair true stop).getLsbD 1 = true := by decide

/-- With `rst = 1` the operation is RESET (R116). -/
theorem decode_fetched_of_rst {s : State} (hr : s.drive.rst = true) :
    ∃ p, fetch s = some (.ctrl p) ∧ decode s.view (.ctrl p) = .ok .reset :=
  ⟨_, fetch_of_rst hr, decode_ctrl_of_rst _ _ (ctrlPair_rst _)⟩

theorem rxReady_iff (s : State) :
    rxReady s = true ↔ s.st ≠ .stopped ∧ s.drive.rst = false ∧ s.drive.stop = false := by
  simp [rxReady, and_assoc]

/-- The Event is no control event exactly without `rst` and `stop`. -/
theorem fetch_ne_ctrl_iff (s : State) :
    (∀ p, fetch s ≠ some (.ctrl p)) ↔ s.drive.rst = false ∧ s.drive.stop = false := by
  cases hr : s.drive.rst with
  | true => simp [fetch_of_rst hr]
  | false =>
    cases hs : s.drive.stop with
    | true => simp [fetch_of_stop hr hs]
    | false =>
      rw [fetch_of_no_control hr hs]
      split_ifs <;> simp

/-- A symbol is the Event exactly if it is offered and no control event comes before it. -/
theorem fetch_eq_sym_iff (s : State) (x : SymbolWord) :
    fetch s = some (.sym x) ↔
      s.drive.rst = false ∧ s.drive.stop = false ∧ s.drive.rxValid = true ∧ s.rx.head? = some x := by
  cases hr : s.drive.rst with
  | true => simp [fetch_of_rst hr]
  | false =>
    cases hs : s.drive.stop with
    | true => simp [fetch_of_stop hr hs]
    | false =>
      rw [fetch_of_no_control hr hs]
      split_ifs with hv <;> simp [hv]

/-- The row that a symbol selects takes it, but for the hold in STOPPED. -/
theorem takesSymbol_of_decode_sym {v : View} {x : SymbolWord} {i : Instr} (hd : decode v (.sym x) = .ok i)
    (hst : v.st ≠ .stopped) : TakesSymbol i := by
  have hm := symMatches_of_decode hd
  refine ⟨?_, ?_, ?_⟩ <;> rintro rfl
  · cases hm
  · cases hm
  · obtain ⟨-, -, -, hsel⟩ := (symMatches_iff_of_row rfl v x).1 hm
    exact hst (eq_of_beq hsel)

/-- The row that a control pair selects takes no symbol. -/
theorem not_takesSymbol_of_decode_ctrl {v : View} {p : BitVec 2} {i : Instr} (hd : decode v (.ctrl p) = .ok i) :
    ¬ TakesSymbol i := by
  rintro ⟨hreset, hstop, hhold⟩
  simp only [decode, decodeCtrl] at hd
  split_ifs at hd <;> cases hd
  · exact hreset rfl
  · exact hhold rfl
  · exact hstop rfl

/-- In STOPPED whatever is fetched without `rst` selects STOPPED_HOLD (R115). -/
theorem decode_fetched_stopped {s : State} {w : OpWord} (hst : s.st = .stopped) (hr : s.drive.rst = false)
    (hf : fetch s = some w) : decode s.view w = .ok .stoppedHold := by
  cases hs : s.drive.stop with
  | true =>
    rw [fetch_of_stop hr hs] at hf
    cases hf
    exact decode_ctrl_stop_of_stopped hst
  | false =>
    rcases fetch_cases hf with ⟨p, rfl, -⟩ | ⟨x, xs, rfl, -⟩
    · exact absurd hf ((fetch_ne_ctrl_iff s).2 ⟨hr, hs⟩ p)
    · exact decode_sym_stopped x hst

/-- The parser's part with an Event is the operation that the Event decodes to. -/
theorem parserPart_of_fetch {s : State} {w : OpWord} {i : Instr} (hf : fetch s = some w)
    (hd : decode s.view w = .ok i) : parserPart s = exec i s := by
  simp only [parserPart, hf, hd]

/-- The parser's part without an Event. -/
theorem parserPart_of_no_event {s : State} (hf : fetch s = none) : parserPart s = .next s.low := by
  simp only [parserPart, hf]

/-- The caller's part with a request is the operation that the request decodes to. -/
theorem callerPart_of_call {s : State} {c : Call} {j : Instr} (hc : s.drive.call = some c)
    (hd : decode s.view (callWord c) = .ok j) : callerPart s = exec j s := by
  simp only [callerPart, hc, hd]

/-- The caller's part without a request. -/
theorem callerPart_of_no_call {s : State} (hc : s.drive.call = none) : callerPart s = .next s.low := by
  simp only [callerPart, hc]

/-- A step of two parts that answer. -/
theorem step_of_parts {s p u : State} (hp : parserPart s = .next p) (hu : callerPart s = .next u) :
    step s = .next (p.answeredBy u).advance := by
  rw [step, hp, hu]
  rfl

/-- A fault of the parser's part is the step's. -/
theorem step_of_parserPart_fault {s : State} {r : Fault} (h : parserPart s = .fault r) : step s = .fault r := by
  obtain ⟨u, hu, -⟩ := callerPart_next s
  rw [step, h, hu]
  rfl

/-- A fault of the step is the parser's: a caller is always answered. -/
theorem parserPart_fault_of_step {s : State} {r : Fault} (h : step s = .fault r) : parserPart s = .fault r := by
  obtain ⟨u, hu, -⟩ := callerPart_next s
  rw [step, hu] at h
  cases hp : parserPart s with
  | next p =>
    rw [hp] at h
    cases h
  | fault r' =>
    rw [hp] at h
    cases h
    rfl
  | refused r' =>
    rw [hp] at h
    cases h

/-- Without a request the parser's next state is already as answered: it answers nobody and leaves the composer. -/
theorem answeredBy_low {i : Instr} {s t : State} (hi : fetchable i = true) (h : exec i s = .next t) :
    t.answeredBy s.low = t := by
  obtain ⟨htx, hres, hsent, -⟩ := exec_fetchable hi h
  cases t
  simp_all [State.answeredBy]

/-- A step with an Event and without a request is the Event's operation, the input passed. -/
theorem step_of_exec {s t : State} {w : OpWord} {i : Instr} (hf : fetch s = some w) (hd : decode s.view w = .ok i)
    (he : exec i s = .next t) (hc : s.drive.call = none) : step s = .next t.advance := by
  obtain ⟨-, hi⟩ := selectedIn_of_fetch hf hd
  rw [step_of_parts ((parserPart_of_fetch hf hd).trans he) (callerPart_of_no_call hc), answeredBy_low hi he]

/-- In STOPPED the parser's part without `rst` leaves everything but the strobes (R115). -/
theorem parserPart_stopped {s : State} (hst : s.st = .stopped) (hr : s.drive.rst = false) :
    parserPart s = .next s.low := by
  cases hf : fetch s with
  | none => exact parserPart_of_no_event hf
  | some w => exact parserPart_of_fetch hf (decode_fetched_stopped hst hr hf)

/-- No operation is refused: every arm of `exec` gives its row a meaning. -/
theorem exec_ne_refused (i : Instr) (s : State) (r : Refusal) : exec i s ≠ .refused r := by
  cases i
  case huntSof =>
    rw [exec_huntSof]
    nofun
  case lenOk l =>
    rw [exec_lenOk]
    nofun
  case bodyByte b =>
    rcases Nat.lt_or_ge s.idx.toNat 65 with hin | hout
    · rw [exec_bodyByte b s (Nat.le_of_lt_succ hin)]
      nofun
    · rw [exec_bodyByte_outside b hout]
      nofun
  case bodyLastOk b =>
    rcases Nat.lt_or_ge s.lenR.toNat 65 with hin | hout
    · rw [exec_bodyLastOk b s (Nat.le_of_lt_succ hin)]
      nofun
    · rw [exec_bodyLastOk_outside b hout]
      nofun
  case compose c p =>
    rcases Nat.lt_or_ge p.length 62 with hle | hgt
    · rw [exec_compose_of_le (Nat.le_of_lt_succ hle)]
      nofun
    · rw [exec_compose_of_gt hgt]
      nofun
  case parseState f =>
    rw [exec_parseState]
    nofun
  all_goals nofun

theorem runSteps_succ {s t : State} (h : step s = .next t) (k : Nat) : runSteps (k + 1) s = runSteps k t := by
  rw [runSteps, h]

theorem runOutputs_succ {s t : State} (h : step s = .next t) (k : Nat) :
    runOutputs (k + 1) s = t.out ++ runOutputs k t := by
  rw [runOutputs, h]

/-- What an Event selects reads of the inputs the `q_ready` bits only, and passes the inputs on. -/
theorem exec_with_inputs {i : Instr} {s : State} {ins : List Drive} (hi : fetchable i = true)
    (hq : (State.drive { s with inputs := ins }).qReady = s.drive.qReady) :
    exec i { s with inputs := ins } = Result.mapNext (fun t => { t with inputs := ins }) (exec i s) := by
  cases i
  case huntSof => rw [exec_huntSof, exec_huntSof, mapNext_next]
  case lenOk l => rw [exec_lenOk, exec_lenOk, mapNext_next]
  case bodyByte b =>
    rcases Nat.lt_or_ge s.idx.toNat 65 with hin | hout
    · have hin := Nat.le_of_lt_succ hin
      rw [exec_bodyByte b s hin, exec_bodyByte b { s with inputs := ins } hin, mapNext_next]
    · rw [exec_bodyByte_outside b hout, exec_bodyByte_outside b (s := { s with inputs := ins }) hout]
      rfl
  case bodyLastOk b =>
    rcases Nat.lt_or_ge s.lenR.toNat 65 with hin | hout
    · have hin := Nat.le_of_lt_succ hin
      rw [exec_bodyLastOk b s hin, exec_bodyLastOk b { s with inputs := ins } hin, mapNext_next, hq]
    · rw [exec_bodyLastOk_outside b hout, exec_bodyLastOk_outside b (s := { s with inputs := ins }) hout]
      rfl
  case huntNoiseLf | huntNoiseCr | huntNoise | huntTimeout => rfl
  case lenBad | lenTimeout | bodyLastBad | bodyTimeout => rfl
  case stoppedHold | reset | stop => rfl
  all_goals cases hi

/-- The parser's part under other inputs that give the same Event and the same `q_ready` bits. -/
theorem parserPart_with_inputs {s : State} {ins : List Drive} (hf : fetch { s with inputs := ins } = fetch s)
    (hq : (State.drive { s with inputs := ins }).qReady = s.drive.qReady) :
    parserPart { s with inputs := ins } = Result.mapNext (fun t => { t with inputs := ins }) (parserPart s) := by
  cases hw : fetch s with
  | none =>
    rw [parserPart_of_no_event hw, parserPart_of_no_event (hf.trans hw)]
    rfl
  | some w =>
    cases hd : decode s.view w with
    | ok i =>
      obtain ⟨-, hi⟩ := selectedIn_of_fetch hw hd
      rw [parserPart_of_fetch hw hd, parserPart_of_fetch (hf.trans hw) hd, exec_with_inputs hi hq]
    | error e =>
      have hd' : decode (State.view { s with inputs := ins }) w = .error e := hd
      simp only [parserPart, hf, hw, hd, hd']
      rfl

/-- The input of a step that answers passes (R100). -/
theorem inputs_of_step {s t : State} (h : step s = .next t) : t.inputs = s.inputs.tail := by
  obtain ⟨u, -, hstep⟩ := step_effect h
  rcases hstep with ⟨-, rfl⟩ | ⟨w, i, p, -, -, -, heff, rfl⟩
  · rfl
  · exact congrArg List.tail heff.inputs

/-- The stream loses its head exactly when `rx_ready` and `rx_valid` are both 1 (R172). -/
theorem rx_of_step {s t : State} (h : step s = .next t) :
    t.rx = if rxReady s && s.drive.rxValid then s.rx.tail else s.rx := by
  obtain ⟨u, -, hstep⟩ := step_effect h
  rcases hstep with ⟨hf, rfl⟩ | ⟨w, i, p, hf, hd, -, heff, rfl⟩
  · change s.rx = _
    split_ifs with htake
    · obtain ⟨hready, hv⟩ := Bool.and_eq_true_iff.1 htake
      obtain ⟨-, hr, hs⟩ := (rxReady_iff s).1 hready
      have hnil : s.rx = [] := by simpa [fetch_of_no_control hr hs, hv] using hf
      rw [hnil, List.tail_nil]
    · rfl
  · change p.rx = _
    rcases fetch_cases hf with ⟨c, rfl, -⟩ | ⟨x, xs, rfl, -⟩
    · have hready : ¬ rxReady s = true := fun hr => (fetch_ne_ctrl_iff s).2 ((rxReady_iff s).1 hr).2 c hf
      simp [hready, heff.rx_of_not_takesSymbol (not_takesSymbol_of_decode_ctrl hd)]
    · obtain ⟨hr, hs, hv, -⟩ := (fetch_eq_sym_iff s x).1 hf
      by_cases hst : s.st = .stopped
      · rw [decode_sym_stopped x hst] at hd
        cases hd
        have hready : ¬ rxReady s = true := fun hready => ((rxReady_iff s).1 hready).1 hst
        have hhold : ¬ TakesSymbol .stoppedHold := fun ⟨_, _, hne⟩ => hne rfl
        simp [hready, heff.rx_of_not_takesSymbol hhold]
      · have hready : rxReady s = true := (rxReady_iff s).2 ⟨hst, hr, hs⟩
        simp [hready, hv, heff.rx_of_takesSymbol (takesSymbol_of_decode_sym hd hst)]

end Sys2Proof.Machine
end

section
/-! PROOFS. One step of the machine: the Event and its priority, the control events, the callers and the symbols taken
(41_synchronizer.md R100, R114 to R116; 10_state.md R20, R27; 70_reset_and_hazards.md R172). -/

namespace Sys2Proof.Proofs

open Sys2Proof Sys2Proof.Machine

/-- Settles O34. The step is its two parts run on the same state; a caller's operation differs from the state with low
strobes by what `answeredBy` takes from it. -/
theorem stepRunsTheDecodedOperation : Obligations.StepRunsTheDecodedOperation := by
  unfold Obligations.StepRunsTheDecodedOperation
  refine ⟨fun s w i hf hd => ⟨fun t he => ⟨fun hc => ?_, fun c j u hc hj hu => ?_⟩, fun r he => ?_⟩,
    fun s hf => ⟨fun hc => ?_, fun c j u hc hj hu => ?_⟩, fun s c => ?_, exec_ne_refused, fun s w e hf hd => ?_⟩
  · exact step_of_exec hf hd he hc
  · exact step_of_parts ((parserPart_of_fetch hf hd).trans he) ((callerPart_of_call hc hj).trans hu)
  · exact step_of_parserPart_fault ((parserPart_of_fetch hf hd).trans he)
  · exact step_of_parts (parserPart_of_no_event hf) (callerPart_of_no_call hc)
  · have hcaller : callerPart s = .next u := (callerPart_of_call hc hj).trans hu
    obtain ⟨u', hu', hlow, -⟩ := callerPart_next s
    obtain rfl : u' = u := by
      rw [hcaller] at hu'
      cases hu'
      rfl
    rw [step_of_parts (parserPart_of_no_event hf) hcaller, ← hlow]
    rfl
  · obtain ⟨j, u, hj, hu, -⟩ := call_answers s c
    exact ⟨j, u, hj, hu⟩
  · exact step_of_parserPart_fault (by simp only [parserPart, hf, hd])

/-- Settles O35, by the three facts about `fetch`, one for each rank of the priority. -/
theorem eventPriority : Obligations.EventPriority := by
  unfold Obligations.EventPriority
  intro s d r hin
  obtain rfl : s.drive = d := drive_of_inputs hin
  refine ⟨decode_fetched_of_rst, fun hr hs hst => ?_, fun hr hs hst => ?_, fun hr hs hv x xs hx => ?_,
    fun hr hs hno => ?_, fun c => ?_⟩
  · exact ⟨fetch_of_stop hr hs, decode_ctrl_stop_of_ne hst⟩
  · exact ⟨fetch_of_stop hr hs, decode_ctrl_stop_of_stopped hst⟩
  · rw [fetch_of_no_control hr hs, if_pos hv, hx]
    rfl
  · rw [fetch_of_no_control hr hs]
    rcases hno with hv | hx
    · rw [hv]
      rfl
    · simp [hx]
  · rfl

/-- Settles O36. With `rst = 1` the operation is RESET, and a caller's answer is all that it does not determine. -/
theorem rstWinsInEveryState : Obligations.RstWinsInEveryState := by
  unfold Obligations.RstWinsInEveryState
  intro s d r hin hr
  obtain rfl : s.drive = d := drive_of_inputs hin
  obtain ⟨p, hf, hd⟩ := decode_fetched_of_rst hr
  obtain ⟨u, hu, -, hnone⟩ := callerPart_next s
  refine ⟨_, step_of_parts (parserPart_of_fetch hf hd) hu, ?_, fun hc => ?_⟩
  · simp [State.advance, State.answeredBy, State.low, State.enterHunt, hin]
  · simp [hnone hc]

/-- Settles O37: STOP outside STOPPED and STOPPED_HOLD in it. -/
theorem stopIsObservedAtOnce : Obligations.StopIsObservedAtOnce := by
  unfold Obligations.StopIsObservedAtOnce
  intro s d r hin hr hs
  obtain rfl : s.drive = d := drive_of_inputs hin
  obtain ⟨u, hu, -⟩ := callerPart_next s
  by_cases hst : s.st = .stopped
  · refine ⟨_, step_of_parts (parserPart_stopped hst hr) hu, hst, rfl, rfl, ?_, fun hne => absurd hst hne, ?_⟩
    · simp [hin]
    · simp [hst]
  · have hp := parserPart_of_fetch (fetch_of_stop hr hs) (decode_ctrl_stop_of_ne hst)
    exact ⟨_, step_of_parts hp hu, rfl, rfl, rfl, congrArg List.tail hin, fun _ => ⟨rfl, rfl, rfl⟩, rfl⟩

/-- Settles O38. The row that a symbol selects takes it except in STOPPED, and the row of a control pair takes none.
-/
theorem eachSymbolIsTakenOnce : Obligations.EachSymbolIsTakenOnce := by
  unfold Obligations.EachSymbolIsTakenOnce
  refine ⟨fun s => ?_, fun s t h => ⟨rx_of_step h, inputs_of_step h, rxReady_iff s⟩⟩
  rw [rxReady_iff, fetch_ne_ctrl_iff]
  cases s.st <;> simp

/-- The control inputs of the step at hand have `rst = 0` if the first of the schedule has, or if it is used up. -/
theorem drive_rst_of_first {s : State} (h : ∀ d, s.inputs[0]? = some d → d.rst = false) : s.drive.rst = false := by
  cases hin : s.inputs with
  | nil =>
    rw [State.drive, hin]
    rfl
  | cons d r =>
    rw [drive_of_inputs hin]
    exact h d (by rw [hin]; rfl)

/-- Settles O39, by induction on the number of steps: STOPPED_HOLD or no Event, and the rest of the schedule has no
`rst` either. -/
theorem stoppedIsAbsorbing : Obligations.StoppedIsAbsorbing := by
  unfold Obligations.StoppedIsAbsorbing
  intro k
  induction k with
  | zero => exact fun s hst _ => ⟨s, rfl, hst, rfl, rfl, rfl, rfl, rfl, rfl⟩
  | succ k ih =>
    intro s hst hins
    have hr : s.drive.rst = false := drive_rst_of_first fun d => hins 0 d (Nat.succ_pos k)
    obtain ⟨u, hu, -⟩ := callerPart_next s
    have hstep := step_of_parts (parserPart_stopped hst hr) hu
    have hins' (n : Nat) (d : Drive) (hn : n < k) : s.inputs.tail[n]? = some d → d.rst = false := by
      rw [List.getElem?_tail]
      exact hins (n + 1) d (Nat.succ_lt_succ hn)
    obtain ⟨t, hrun, hst', hidx, hlenR, hacc, hbuf, hrx, hout⟩ := ih (s.low.answeredBy u).advance hst hins'
    refine ⟨t, (runSteps_succ hstep k).trans hrun, hst', hidx, hlenR, hacc, hbuf, hrx, ?_⟩
    rw [runOutputs_succ hstep, hout]
    rfl

/-- Settles O40. The operation of an Event reads of the inputs the `q_ready` bits only, and the request is no part of
them. -/
theorem callsDoNotTouchTheParser : Obligations.CallsDoNotTouchTheParser := by
  unfold Obligations.CallsDoNotTouchTheParser
  intro s d r c
  have hparser : parserPart { s with inputs := { d with call := some c } :: r } =
      Result.mapNext (fun t => { t with inputs := { d with call := some c } :: r })
        (parserPart { s with inputs := { d with call := none } :: r }) :=
    parserPart_with_inputs (s := { s with inputs := { d with call := none } :: r }) rfl rfl
  refine ⟨fun t h => ?_, fun f h => ?_⟩
  · obtain ⟨p, u, hp, hu, rfl⟩ := step_parts h
    obtain rfl : State.low { s with inputs := { d with call := none } :: r } = u := by
      rw [callerPart_of_no_call rfl] at hu
      cases hu
      rfl
    rw [hp, mapNext_next] at hparser
    obtain ⟨j, v, hj, hv, -, hres⟩ := call_answers { s with inputs := { d with call := some c } :: r } c
    refine ⟨_, step_of_parts hparser ((callerPart_of_call rfl hj).trans hv), ?_, rfl, hres⟩
    have hins : p.inputs.tail = r := inputs_of_step h
    simp only [State.answeredBy, State.advance, hins, List.tail_cons]
  · rw [parserPart_fault_of_step h] at hparser
    exact step_of_parserPart_fault hparser

/-- Settles O12. The Output of STOP depends on the state that it leaves. -/
theorem stopDropsTheFrame : Obligations.StopDropsTheFrame := by
  unfold Obligations.StopDropsTheFrame
  refine ⟨fun v => decode_ctrl_stop_of_ne, fun s => ⟨fun hst => ?_, fun hst => ?_⟩⟩
  · simp only [exec, execStop, stopOutputs, if_pos hst]
    rfl
  · have hout : ¬ (s.st = .len ∨ s.st = .body) := by rcases hst with hst | hst <;> simp [hst]
    simp only [exec, execStop, stopOutputs, if_neg hout]
    rfl

/-- Settles O13: in STOPPED the decoder gives STOPPED_HOLD for all but a pair with the bit `rst`. -/
theorem stoppedHoldsStill : Obligations.StoppedHoldsStill := by
  unfold Obligations.StoppedHoldsStill
  refine ⟨fun v hst => ⟨decode_ctrl_stop_of_stopped hst, fun x => decode_sym_stopped x hst, fun p i hd => ?_⟩,
    fun s hst => ?_, fun s => rfl⟩
  · by_cases hp : p.getLsbD 1 = true
    · rw [decode_ctrl_of_rst v p hp] at hd
      cases hd
      exact .inr ⟨rfl, hp⟩
    · simp only [decode, decodeCtrl, if_neg hp, if_pos hst] at hd
      split_ifs at hd
      cases hd
      exact .inl rfl
  · rw [rxReady, hst]
    rfl

/-- Settles O14. Without `rst` a step in STOPPED stays there. -/
theorem resetClearsTheParser : Obligations.ResetClearsTheParser := by
  unfold Obligations.ResetClearsTheParser
  refine ⟨fun v => ⟨decode_ctrl_of_rst v _ (by decide), decode_ctrl_of_rst v _ (by decide)⟩, fun s t hst h hne => ?_,
    fun s => rfl⟩
  cases hr : s.drive.rst with
  | true => exact decode_fetched_of_rst hr
  | false =>
    obtain ⟨u, -, hstep⟩ := step_of_parserPart (parserPart_stopped hst hr)
    rw [hstep] at h
    cases h
    exact absurd hst hne

/-- Settles O15: the registers are those of HUNT, in which 0x02 is a start marker. -/
theorem resetValues : Obligations.ResetValues := by
  unfold Obligations.ResetValues
  refine ⟨rfl, rfl, rfl, rfl, Memory.read_nil, rfl, decode_byte_hunt 0x02 rfl, fun s => ?_⟩
  exact ⟨s.low.enterHunt, rfl, rfl, rfl, rfl, rfl, rfl, rfl, decode_byte_hunt 0x02 rfl⟩

end Sys2Proof.Proofs
end

section
/-! SUPPORT. The command map, the hand-off by class and what stands on the ports (42_classifier.md R120 to R126;
10_state.md R27). -/

namespace Sys2Proof.Machine

/-- The class of a sequence is that of its byte 2 (R120). -/
theorem classifyFrame_of_getElem? {f : List Byte} {c : Byte} (h : f[2]? = some c) :
    classifyFrame f = classOfCommand c := by
  rw [classifyFrame, byteAt_of_getElem? h]

/-- The five command bytes with a row of their own, and the rest (R69). -/
theorem commandRow_cases (c : Byte) :
    c = 0x00 ∨ c = 0x01 ∨ c = 0x02 ∨ c = 0x03 ∨ c = 0x08 ∨
      (decodeCommand c = .cmdOther c ∧ classOfCommand c = .ignored) := by
  revert c
  decide

/-- The row that a command byte selects answers the byte's class (R69, R120). -/
theorem exec_decodeCommand (c : Byte) (s : State) : exec (decodeCommand c) s = classAnswer (classOfCommand c) s := by
  rcases commandRow_cases c with rfl | rfl | rfl | rfl | rfl | ⟨hrow, hclass⟩
  · rfl
  · rfl
  · rfl
  · rfl
  · rfl
  · rw [hrow, hclass]
    rfl

/-- The command map by cases: each command byte with a class of its own, and all others Ignored (R120). -/
theorem classOfCommand_cases (c : Byte) :
    ((c = 0x00 ∨ c = 0x01) ∧ classOfCommand c = .ack) ∨ (c = 0x08 ∧ classOfCommand c = .event) ∨
    (c = 0x02 ∧ classOfCommand c = .getReply) ∨
    ((c ≠ 0x00 ∧ c ≠ 0x01 ∧ c ≠ 0x02 ∧ c ≠ 0x08) ∧ classOfCommand c = .ignored) := by
  revert c
  decide

/-- The hand-off of a frame whose command byte has a class with a queue (R122 to R125). -/
theorem handoffOutputs_of_queue {q : BitVec 3} {f : List Byte} {c : Byte} {cls : FrameClass} {n : Nat}
    (hc : f[2]? = some c) (hclass : classOfCommand c = cls) (hqueue : queueOf cls = some n) :
    handoffOutputs q f =
      [.classified cls f (tripleOf f), if q.getLsbD n then .push cls f else .discard (.qFull cls f)] := by
  obtain rfl := (classifyFrame_of_getElem? hc).trans hclass
  exact handoffOutputs_queued hqueue

/-- The hand-off of a frame whose command byte has the class Ignored (R125). -/
theorem handoffOutputs_of_ignored {q : BitVec 3} {f : List Byte} {c : Byte} (hc : f[2]? = some c)
    (hclass : classOfCommand c = .ignored) : handoffOutputs q f = [.classified .ignored f (tripleOf f)] := by
  have hclass := (classifyFrame_of_getElem? hc).trans hclass
  rw [handoffOutputs_ignored (by rw [hclass]; rfl), hclass]

/-- The push and the diagnostic port at the hand-off of a frame of a class with a queue: the one or the other (R123,
R124). -/
theorem ports_of_queue {q : BitVec 3} {f : List Byte} {c : Byte} {cls : FrameClass} {n : Nat}
    (hc : f[2]? = some c) (hclass : classOfCommand c = cls) (hqueue : queueOf cls = some n) :
    pushPort (handoffOutputs q f) = (if q.getLsbD n then pushBit cls else 0) ∧
    diagPort (handoffOutputs q f) =
      (if q.getLsbD n then none else some { cause := 5, info := (classCode cls).setWidth 16 }) := by
  rw [handoffOutputs_of_queue hc hclass hqueue]
  cases q.getLsbD n <;> exact ⟨rfl, rfl⟩

/-- One discard alone puts its code and info on the diagnostic port and nothing on the others (R27, R140). -/
theorem diagnosticOnly_discard (d : Discard) {cause : BitVec 3} {info : BitVec 16} (hcause : causeCode d = cause)
    (hinfo : causeInfo d = info) : DiagnosticOnly [.discard d] cause info := by
  subst hcause hinfo
  exact ⟨rfl, rfl, rfl⟩

/-- An info of 16 bits or fewer widened with zeros is its number (log entry 8). -/
theorem setWidth_sixteen {w : Nat} (x : BitVec w) : x.setWidth 16 = BitVec.ofNat 16 x.toNat := by
  apply BitVec.eq_of_toNat_eq
  rw [BitVec.toNat_setWidth, BitVec.toNat_ofNat]

/-- Two bytes side by side, the first in the upper half (log entry 8). -/
theorem append_bytes (x y : Byte) : x ++ y = BitVec.ofNat 16 (256 * x.toNat + y.toNat) := by
  apply BitVec.eq_of_toNat_eq
  rw [BitVec.toNat_append, BitVec.toNat_ofNat, ← Nat.shiftLeft_add_eq_or_of_lt y.isLt, Nat.shiftLeft_eq]
  omega

/-- The members of a hand-off's Outputs (R122 to R125). -/
theorem classified_mem_handoffOutputs {q : BitVec 3} {c : FrameClass} {f g : List Byte} {tr : Option Triple}
    (h : Output.classified c f tr ∈ handoffOutputs q g) : f = g ∧ c = classifyFrame g ∧ tr = tripleOf g := by
  rcases handoffOutputs_cases q g with ⟨hc, ho⟩ | ⟨-, ho⟩ | ⟨-, ho⟩
  · obtain ⟨rfl, rfl, rfl⟩ : c = .ignored ∧ f = g ∧ tr = tripleOf g := by simpa [ho] using h
    exact ⟨rfl, hc.symm, rfl⟩
  · obtain ⟨rfl, rfl, rfl⟩ : c = classifyFrame g ∧ f = g ∧ tr = tripleOf g := by simpa [ho] using h
    exact ⟨rfl, rfl, rfl⟩
  · obtain ⟨rfl, rfl, rfl⟩ : c = classifyFrame g ∧ f = g ∧ tr = tripleOf g := by simpa [ho] using h
    exact ⟨rfl, rfl, rfl⟩

theorem push_mem_handoffOutputs {q : BitVec 3} {c : FrameClass} {f g : List Byte}
    (h : Output.push c f ∈ handoffOutputs q g) :
    f = g ∧ c = classifyFrame g ∧ c ≠ .ignored ∧
      handoffOutputs q g = [.classified c f (tripleOf f), .push c f] := by
  rcases handoffOutputs_cases q g with ⟨-, ho⟩ | ⟨hc, ho⟩ | ⟨-, ho⟩
  · simp [ho] at h
  · obtain ⟨rfl, rfl⟩ : c = classifyFrame g ∧ f = g := by simpa [ho] using h
    exact ⟨rfl, rfl, hc, ho⟩
  · simp [ho] at h

/-- A hand-off has one `Classified`, and one `Push` or one `Discard` at most (R122 to R125). -/
theorem handoffOutputs_counts (q : BitVec 3) (f : List Byte) :
    ((handoffOutputs q f).filter Output.isClassified).length ≤ 1 ∧
    ((handoffOutputs q f).filter Output.isPush).length ≤ 1 ∧
    ((handoffOutputs q f).filter Output.isDiscard).length ≤ 1 := by
  rcases handoffOutputs_cases q f with ⟨-, ho⟩ | ⟨-, ho⟩ | ⟨-, ho⟩ <;> rw [ho]
  · exact ⟨Nat.le_refl 1, Nat.zero_le 1, Nat.zero_le 1⟩
  · exact ⟨Nat.le_refl 1, Nat.le_refl 1, Nat.zero_le 1⟩
  · exact ⟨Nat.le_refl 1, Nat.zero_le 1, Nat.le_refl 1⟩

/-- A byte of the buffer as a list look-up. -/
theorem Memory.getElem?_frame {m : Memory} {n a : Nat} (h : a < n) :
    (Memory.frame m n)[a]? = some (Memory.byte m a) := by
  simp [Memory.frame, List.getElem?_range h]

/-- The frame that BODY_LAST_OK hands off is valid: marker and length stand in the buffer, and the last byte is the
accumulator, the sum of all before it (R135, R138). -/
theorem validFrame_of_inBody {s : State} (h : s.InBody) (heq : s.idx = s.lenR) :
    validFrame (Memory.frame s.buf s.lenR.toNat ++ [s.acc]) = true := by
  have hmin := h.three_le_lenR
  have hmax := h.lenR_le
  have hlen : (Memory.frame s.buf s.lenR.toNat ++ [s.acc]).length - 1 = s.lenR.toNat := by simp
  have hbyte {a : Nat} (ha : a < s.lenR.toNat) :
      (Memory.frame s.buf s.lenR.toNat ++ [s.acc])[a]? = some (Memory.byte s.buf a) := by
    rw [List.getElem?_append_left (by simpa using ha), Memory.getElem?_frame ha]
  rw [validFrame_iff, hlen]
  refine ⟨by simpa using hmin, by simpa using Nat.lt_succ_of_le hmax, ?_, ?_, ?_⟩
  · rw [hbyte (by omega), Memory.byte_of_read h.marker]
  · rw [hbyte (by omega), Memory.byte_of_read h.length, BitVec.ofNat_toNat]
  · rw [List.take_left' (by simp), ← heq, ← h.acc_eq]
    simp [heq]

/-- What a step puts out: nothing, one discard, or the hand-off of the frame that BODY_LAST_OK completes. -/
theorem out_of_step {s t : State} (h : step s = .next t) :
    t.out = [] ∨ (∃ d, t.out = [.discard d]) ∨
      ∃ w b, fetch s = some w ∧ decode s.view w = .ok (.bodyLastOk b) ∧ s.st = .body ∧ s.idx = s.lenR ∧ s.acc = b ∧
        t.out = handoffOutputs s.drive.qReady (Memory.frame s.buf s.lenR.toNat ++ [b]) := by
  obtain ⟨u, -, hstep⟩ := step_effect h
  rcases hstep with ⟨-, rfl⟩ | ⟨w, i, p, hf, hd, hsel, heff, rfl⟩
  · exact .inl rfl
  · rcases heff.out_cases with ho | hdiscard | ⟨b, rfl, -, ho⟩
    · exact .inl ho
    · exact .inr (.inl hdiscard)
    · obtain ⟨hst, heq, hacc⟩ := selectedIn_bodyLastOk.1 hsel
      exact .inr (.inr ⟨w, b, hf, hd, hst, heq, hacc, ho⟩)

/-- From a legal state a frame is put out by a hand-off only, and it is valid. -/
theorem State.Legal.handoff_of_step {s t : State} (hs : s.Legal) (h : step s = .next t) {o : Output} (ho : o ∈ t.out)
    (hclass : o.isDiscard = false) : ∃ q f, validFrame f = true ∧ t.out = handoffOutputs q f := by
  rcases out_of_step h with hnil | ⟨d, hd⟩ | ⟨w, b, -, -, hst, heq, rfl, hout⟩
  · simp [hnil] at ho
  · obtain rfl : o = .discard d := by simpa [hd] using ho
    cases hclass
  · exact ⟨_, _, validFrame_of_inBody ((legal_body_iff hst).1 hs).2 heq, hout⟩

end Sys2Proof.Machine
end

section
/-! PROOFS. What a step puts out (42_classifier.md R122 to R127, 60_exceptions.md R148, 43_codec.md R138). -/

namespace Sys2Proof.Proofs

open Sys2Proof Sys2Proof.Machine

/-- Settles O47, by the three things that a step can put out; the hand-off has three shapes. -/
theorem stepOutputsShape : Obligations.StepOutputsShape := by
  unfold Obligations.StepOutputsShape
  intro s t h
  rcases out_of_step h with hnil | ⟨d, hd⟩ | ⟨w, b, hf, hdec, -, -, -, hout⟩
  · simp [hnil]
  · rw [hd]
    exact ⟨Nat.zero_le 1, Nat.zero_le 1, Nat.le_refl 1, fun c f hmem => by simp at hmem, nofun⟩
  · rw [hout]
    obtain ⟨hclassified, hpush, hdiscard⟩ :=
      handoffOutputs_counts s.drive.qReady (Memory.frame s.buf s.lenR.toNat ++ [b])
    refine ⟨hclassified, hpush, hdiscard, fun c f hmem => ?_, fun _ => ⟨w, b, hf, hdec⟩⟩
    obtain ⟨-, -, hc, ho⟩ := push_mem_handoffOutputs hmem
    exact ⟨hc, ho⟩

/-- Settles O48. The Outputs are the hand-off's of one valid frame. -/
theorem emittedFramesAreValid : Obligations.EmittedFramesAreValid := by
  unfold Obligations.EmittedFramesAreValid
  refine fun s t hs h => ⟨fun c f tr hmem => ?_, fun c f hmem => ?_⟩
  · obtain ⟨q, g, hvalid, hout⟩ := hs.handoff_of_step h hmem rfl
    obtain ⟨rfl, hc, htr⟩ := classified_mem_handoffOutputs (hout ▸ hmem)
    exact ⟨hvalid, hc, htr⟩
  · obtain ⟨q, g, hvalid, hout⟩ := hs.handoff_of_step h hmem rfl
    obtain ⟨rfl, hc, -⟩ := push_mem_handoffOutputs (hout ▸ hmem)
    exact ⟨hvalid, hc⟩

end Sys2Proof.Proofs
end

section
/-! PROOFS. The other rows one by one: noise and Timeouts, the last byte of a frame, the accumulator, the command
map, the functions and the hand-off, and the ports. -/

namespace Sys2Proof.Proofs

open Sys2Proof Sys2Proof.Machine

/-- Settles O2. The two bytes select a quiet row in HUNT only. -/
theorem huntQuietNoiseIsDiscarded : Obligations.HuntQuietNoiseIsDiscarded := by
  unfold Obligations.HuntQuietNoiseIsDiscarded
  refine ⟨fun s => ⟨rfl, rfl⟩, fun v hst => ⟨?_, ?_⟩, fun v hst => ⟨?_, ?_⟩, fun v hst hlt => ⟨?_, ?_⟩⟩
  · exact decode_byte_hunt 0x0A hst
  · exact decode_byte_hunt 0x0D hst
  · exact decode_byte_len 0x0A hst
  · exact decode_byte_len 0x0D hst
  · exact decode_byte_body_of_lt 0x0A hst hlt
  · exact decode_byte_body_of_lt 0x0D hst hlt

/-- Settles O4. A Timeout in HUNT only passes. -/
theorem huntTimeoutDoesNothing : Obligations.HuntTimeoutDoesNothing := by
  unfold Obligations.HuntTimeoutDoesNothing
  exact ⟨fun v d => decode_timeout_hunt d, fun s => rfl⟩

/-- Settles O7. A Timeout in LEN is raised as PARTIAL. -/
theorem lenTimeoutIsPartial : Obligations.LenTimeoutIsPartial := by
  unfold Obligations.LenTimeoutIsPartial
  refine ⟨fun v d => decode_timeout_len d, fun s => ?_⟩
  rw [exec, execLenTimeout, raise_low_consume]

/-- Settles O9. The store is at `len_r`, and the frame handed off is read before it. -/
theorem bodyLastOkHandsOff : Obligations.BodyLastOkHandsOff := by
  unfold Obligations.BodyLastOkHandsOff
  refine ⟨fun v b hst heq hacc => ?_, fun b s hlen => ?_⟩
  · rw [decode_byte_body_of_eq b hst heq, if_pos hacc]
  · exact ⟨_, exec_bodyLastOk b s hlen, rfl, Memory.read_write_same s.buf _ b,
      fun a ha => Memory.read_write_other s.buf _ b ha⟩

/-- Settles O16. The two results on numbers are the accumulator's own operations. -/
theorem accumulatorOperations : Obligations.AccumulatorOperations := by
  unfold Obligations.AccumulatorOperations
  refine fun b s => ⟨rfl, ?_, ?_⟩
  · have hsum : BitVec.ofNat 8 ((s.acc.toNat + b.toNat) % 256) = accAdded s.acc b := by
      apply BitVec.eq_of_toNat_eq
      rw [accAdded_eq, add8_toNat, BitVec.toNat_ofNat, Nat.mod_mod]
    rw [hsum]
    rfl
  · have hcmp : decide (s.acc = b) = chkOk s.acc b := by
      rw [Bool.eq_iff_iff, chkOk_iff, decide_eq_true_iff]
    rw [hcmp]
    rfl

/-- Settles O18. The exact-match rows come first, and CMD_OTHER takes what they leave. -/
theorem commandMapClasses : Obligations.CommandMapClasses := by
  unfold Obligations.CommandMapClasses
  refine ⟨fun s => ⟨rfl, rfl, rfl, rfl, rfl, fun c => rfl⟩, fun v => ⟨rfl, rfl, rfl, rfl, rfl, ?_⟩⟩
  intro c h0 h1 h2 h3 h8
  rw [decode, decodeCommand_other h0 h1 h2 h3 h8]

/-- Settles O19. CLASSIFY and the row of the byte answer the same class. -/
theorem classifyFollowsTheCommandMap : Obligations.ClassifyFollowsTheCommandMap := by
  unfold Obligations.ClassifyFollowsTheCommandMap
  intro f c s hc
  have hclassify : exec (.classify f) s = classAnswer (classOfCommand c) s := by
    rw [← classifyFrame_of_getElem? hc]
    rfl
  refine ⟨?_, by rw [hclassify, exec_decodeCommand]⟩
  rw [hclassify, classOfCommand]
  split_ifs <;> rfl

/-- Settles O20. TRIPLE turns on the length alone. -/
theorem classifyAndTripleAnswer : Obligations.ClassifyAndTripleAnswer := by
  unfold Obligations.ClassifyAndTripleAnswer
  refine ⟨fun f s => ⟨classifyFrame f, rfl⟩, fun s b0 b1 b2 x y z b6 r => ?_, fun f s h => ?_⟩
  · have htriple : tripleOf (b0 :: b1 :: b2 :: x :: y :: z :: b6 :: r) = some ⟨x, y, z⟩ :=
      if_pos (by simp [Config.parseMin])
    rw [exec, execTriple, htriple]
    rfl
  · have htriple : tripleOf f = none := if_neg (Nat.not_le_of_lt h)
    rw [exec, execTriple, htriple]
    rfl

/-- Settles O21. The class is that of byte 2, and its queue is that of the class. -/
theorem handoffOutputsByClass : Obligations.HandoffOutputsByClass := by
  unfold Obligations.HandoffOutputsByClass
  intro q f c hc
  refine ⟨fun h => ?_, fun h => ?_, fun h => ?_, fun h0 h1 h2 h8 => ?_⟩
  · exact handoffOutputs_of_queue hc (if_pos h) rfl
  · exact handoffOutputs_of_queue hc (by rw [h]; rfl) rfl
  · exact handoffOutputs_of_queue hc (by rw [h]; rfl) rfl
  · have hclass : classOfCommand c = .ignored := by
      rw [classOfCommand, if_neg (not_or.2 ⟨h0, h1⟩), if_neg h2, if_neg h8]
    exact handoffOutputs_of_ignored hc hclass

/-- Settles O22: the Outputs are appended to the empty list of the step. -/
theorem handoffNeverWaits : Obligations.HandoffNeverWaits := by
  unfold Obligations.HandoffNeverWaits
  exact fun f s => rfl

/-- Settles O25, row by row: no next state but COMPOSE's names `txAcc` or sends a byte. -/
theorem onlyComposeTouchesTheComposer : Obligations.OnlyComposeTouchesTheComposer := by
  unfold Obligations.OnlyComposeTouchesTheComposer
  intro i s t h hne
  cases i
  case compose c p => exact absurd rfl (hne c p)
  case huntSof => rw [execHuntSof_next h]; exact ⟨rfl, rfl⟩
  case lenOk l => rw [execLenOk_next h]; exact ⟨rfl, rfl⟩
  case bodyByte b => rw [(execBodyByte_next h).2]; exact ⟨rfl, rfl⟩
  case bodyLastOk b => rw [(execBodyLastOk_next h).2]; exact ⟨rfl, rfl⟩
  case parseState f => rw [exec_parseState] at h; cases h; exact ⟨rfl, rfl⟩
  all_goals cases h; exact ⟨rfl, rfl⟩

/-- Settles O56. The ports of a hand-off follow its class and the one `q_ready` bit of that class. -/
theorem portCodes : Obligations.PortCodes := by
  unfold Obligations.PortCodes
  refine ⟨⟨rfl, rfl, rfl, rfl⟩, ⟨rfl, rfl, rfl, rfl⟩, fun _ _ _ _ _ _ _ => ⟨rfl, rfl, rfl, rfl, rfl, rfl, rfl⟩,
    fun _ => rfl, fun q f c hc hlen => ⟨?_, ?_, ?_⟩⟩
  · rw [← classifyFrame_of_getElem? hc]
    rfl
  · rw [BitVec.toNat_ofNat]
    exact Nat.mod_eq_of_lt (Nat.lt_of_le_of_lt hlen (by decide))
  · rcases classOfCommand_cases c with ⟨hcmd, hclass⟩ | ⟨rfl, hclass⟩ | ⟨rfl, hclass⟩ | ⟨⟨h0, h1, h2, h8⟩, hclass⟩
    · obtain ⟨hpush, hdiag⟩ := ports_of_queue (q := q) hc hclass rfl
      rw [hpush, hdiag]
      cases hq : q.getLsbD 0 <;> rcases hcmd with rfl | rfl <;> exact ⟨rfl, rfl⟩
    · obtain ⟨hpush, hdiag⟩ := ports_of_queue (q := q) hc hclass rfl
      rw [hpush, hdiag]
      cases hq : q.getLsbD 1 <;> exact ⟨rfl, rfl⟩
    · obtain ⟨hpush, hdiag⟩ := ports_of_queue (q := q) hc hclass rfl
      rw [hpush, hdiag]
      cases hq : q.getLsbD 2 <;> exact ⟨rfl, rfl⟩
    · rw [handoffOutputs_of_ignored hc hclass]
      simp only [h0, h1, h2, h8, or_self, false_and, if_false]
      exact ⟨rfl, rfl⟩

/-- Settles O57. Each row raises or emits one discard, whose cause and info stand on the diagnostic port. -/
theorem discardInfosOnThePorts : Obligations.DiscardInfosOnThePorts := by
  unfold Obligations.DiscardInfosOnThePorts
  refine fun s b => ⟨⟨_, rfl, ?_⟩, ⟨_, rfl, ?_⟩, ⟨_, rfl, ?_⟩, ⟨_, rfl, ?_⟩, ⟨_, rfl, ?_⟩, ⟨_, rfl, ?_⟩, ⟨_, rfl, ?_⟩,
    fun hst => ⟨_, rfl, ?_⟩⟩
  · exact ⟨rfl, rfl, rfl⟩
  · exact ⟨rfl, rfl, rfl⟩
  · exact diagnosticOnly_discard (.noise b) rfl (setWidth_sixteen b)
  · exact diagnosticOnly_discard (.badLen b) rfl (setWidth_sixteen b)
  · exact ⟨rfl, rfl, rfl⟩
  · exact diagnosticOnly_discard (.partialFrame s.idx) rfl (setWidth_sixteen _)
  · exact diagnosticOnly_discard (.badChk s.acc b) rfl (append_bytes _ _)
  · have hout : stopOutputs s = [.discard (.stopPartial s.idx)] := if_pos hst
    change DiagnosticOnly (stopOutputs s) _ _
    rw [hout]
    exact diagnosticOnly_discard (.stopPartial s.idx) rfl (setWidth_sixteen _)

end Sys2Proof.Proofs
end

section
/-! SUPPORT. The parser as the spec's scan equations see it (41_synchronizer.md R117): the mode of a state, one step
of the equations, and that a step of the machine from a legal state is one step of the equations. -/

namespace Sys2Proof.Machine

/-- Which equations of R117 read the rest of the stream from a state; none in STOPPED. In BODY the bytes collected
are those of the buffer below `idx`. -/
def State.mode (s : State) : Option ScanMode :=
  match s.st with
  | .hunt => some .hunting
  | .len => some .afterStart
  | .body => some (.body (s.lenR.setWidth 8) (Memory.frame s.buf s.idx.toNat))
  | .stopped => none

/-- One symbol of the equations of R117: what it puts out, and which equations read on. -/
def scanStep : ScanMode → BitVec 3 → SymbolWord → List Output × ScanMode
  | .hunting, _, x =>
    if symIsTimeout x then ([], .hunting)
    else if symData x = Config.start then ([], .afterStart)
    else if symData x = Config.lineFeed ∨ symData x = Config.carriageReturn then
      ([.discard (.noiseQuiet (symData x))], .hunting)
    else ([.discard (.noise (symData x))], .hunting)
  | .afterStart, _, x =>
    if symIsTimeout x then ([.discard (.partialFrame 1)], .hunting)
    else if lengthLegal (symData x) then ([], .body (symData x) [Config.start, symData x])
    else ([.discard (.badLen (symData x))], .hunting)
  | .body l g, q, x =>
    if symIsTimeout x then ([.discard (.partialFrame (BitVec.ofNat 7 g.length))], .hunting)
    else if g.length = l.toNat then (scanFinish q l (g ++ [symData x]), .hunting)
    else ([], .body l (g ++ [symData x]))

/-- `scanStep` is one symbol of `scanFrom` (R117). -/
theorem scanFrom_cons (m : ScanMode) (q : BitVec 3) (x : SymbolWord) (r : List (BitVec 3 × SymbolWord)) :
    scanFrom m ((q, x) :: r) = (scanStep m q x).1 ++ scanFrom (scanStep m q x).2 r := by
  cases m <;> simp only [scanFrom, scanStep] <;> split_ifs <;> rfl

/-- A byte read by `scan` (R102 to R104). -/
theorem scanStep_hunting_byte (q : BitVec 3) (b : Byte) :
    scanStep .hunting q (symOfByte b) =
      if b = 0x02 then ([], .afterStart)
      else if b = 0x0A ∨ b = 0x0D then ([.discard (.noiseQuiet b)], .hunting)
      else ([.discard (.noise b)], .hunting) := by
  simp [scanStep, Config.start, Config.lineFeed, Config.carriageReturn]

/-- A byte read by `after_start` (R106, R107). -/
theorem scanStep_afterStart_byte (q : BitVec 3) (l : Byte) :
    scanStep .afterStart q (symOfByte l) =
      if lengthLegal l then ([], .body l [0x02, l]) else ([.discard (.badLen l)], .hunting) := by
  simp [scanStep, Config.start]

/-- A byte read by `body` (R109 to R111). -/
theorem scanStep_body_byte (q : BitVec 3) (l b : Byte) (g : List Byte) :
    scanStep (.body l g) q (symOfByte b) =
      if g.length = l.toNat then (scanFinish q l (g ++ [b]), .hunting) else ([], .body l (g ++ [b])) := by
  simp [scanStep]

/-- The end of a frame, its last byte apart (R117). -/
theorem scanFinish_concat (q : BitVec 3) {l : Byte} {g : List Byte} (k : Byte) (h : g.length = l.toNat) :
    scanFinish q l (g ++ [k]) =
      if sum8 g = k then handoffOutputs q (g ++ [k]) else [.discard (.badChk (sum8 g) k)] := by
  rw [scanFinish, ← h, List.take_left, byteAt_concat_length]

theorem mode_of_hunt {s : State} (h : s.st = .hunt) : s.mode = some .hunting := by
  simp [State.mode, h]

theorem mode_of_len {s : State} (h : s.st = .len) : s.mode = some .afterStart := by
  simp [State.mode, h]

theorem mode_of_body {s : State} (h : s.st = .body) :
    s.mode = some (.body (s.lenR.setWidth 8) (Memory.frame s.buf s.idx.toNat)) := by
  simp [State.mode, h]

theorem mode_of_stopped {s : State} (h : s.st = .stopped) : s.mode = none := by
  simp [State.mode, h]

theorem st_of_mode_hunting {s : State} (h : s.mode = some .hunting) : s.st = .hunt := by
  cases hst : s.st <;> simp [State.mode, hst] at h ⊢

/-- `len_r` as the length byte that it came from. -/
theorem toNat_setWidth_eight (i : Index) : (i.setWidth 8).toNat = i.toNat := by
  rw [BitVec.toNat_setWidth]
  exact Nat.mod_eq_of_lt (Nat.lt_trans i.isLt (by decide))

/-- A symbol read in HUNT does what the equations of `scan` say (R102 to R105). -/
theorem exec_scan_hunt {s p : State} {x : SymbolWord} {i : Instr} (hst : s.st = .hunt)
    (hd : decode s.view (.sym x) = .ok i) (he : exec i s = .next p) :
    p.out = (scanStep .hunting s.drive.qReady x).1 ∧ p.mode = some (scanStep .hunting s.drive.qReady x).2 := by
  rcases symbol_cases x with ⟨b, rfl⟩ | ⟨d, rfl⟩
  · rw [decode_byte_hunt b hst] at hd
    rw [scanStep_hunting_byte]
    split_ifs at hd with hsof hlf hcr <;> cases hd
    · rw [exec_huntSof] at he
      cases he
      simp [hsof, State.mode]
    · cases he
      rw [hlf]
      exact ⟨rfl, mode_of_hunt hst⟩
    · cases he
      rw [hcr]
      exact ⟨rfl, mode_of_hunt hst⟩
    · cases he
      rw [if_neg hsof, if_neg (not_or.2 ⟨hlf, hcr⟩)]
      exact ⟨rfl, mode_of_hunt hst⟩
  · rw [decode_timeout_hunt d hst] at hd
    cases hd
    cases he
    rw [scanStep, if_pos (symIsTimeout_ignores_data d)]
    exact ⟨rfl, mode_of_hunt hst⟩

/-- A symbol read in LEN does what the equations of `after_start` say (R106 to R108). -/
theorem exec_scan_len {s p : State} {x : SymbolWord} {i : Instr} (hs : s.Legal) (hst : s.st = .len)
    (hd : decode s.view (.sym x) = .ok i) (he : exec i s = .next p) :
    p.out = (scanStep .afterStart s.drive.qReady x).1 ∧ p.mode = some (scanStep .afterStart s.drive.qReady x).2 := by
  rcases symbol_cases x with ⟨l, rfl⟩ | ⟨d, rfl⟩
  · rw [decode_byte_len l hst] at hd
    rw [scanStep_afterStart_byte]
    split_ifs at hd with hl <;> cases hd
    · obtain ⟨-, -, -, -, hmarker⟩ := (legal_len_iff hst).1 hs
      have hframe : Memory.frame (Memory.write s.buf 1 l) 2 = [0x02, l] := by
        rw [Memory.frame_write_next, Memory.frame_succ, Memory.byte_of_read hmarker]
        rfl
      rw [if_pos ((lengthLegal_iff l).2 hl)]
      rw [exec_lenOk] at he
      cases he
      refine ⟨rfl, ?_⟩
      rw [mode_of_body rfl, setWidth_seven_eight hl.2, ← hframe]
      rfl
    · cases he
      rw [if_neg (by rwa [lengthLegal_iff])]
      exact ⟨rfl, rfl⟩
  · rw [decode_timeout_len d hst] at hd
    cases hd
    cases he
    rw [scanStep, if_pos (symIsTimeout_ignores_data d)]
    exact ⟨rfl, rfl⟩

/-- A symbol read in BODY does what the equations of `body` say (R109 to R112). -/
theorem exec_scan_body {s p : State} {x : SymbolWord} {i : Instr} (hs : s.Legal) (hst : s.st = .body)
    (hd : decode s.view (.sym x) = .ok i) (he : exec i s = .next p) :
    p.out = (scanStep (.body (s.lenR.setWidth 8) (Memory.frame s.buf s.idx.toNat)) s.drive.qReady x).1 ∧
    p.mode = some (scanStep (.body (s.lenR.setWidth 8) (Memory.frame s.buf s.idx.toNat)) s.drive.qReady x).2 := by
  obtain ⟨-, hbody⟩ := (legal_body_iff hst).1 hs
  have hidx := hbody.idx_le_lenR.trans hbody.lenR_le
  have full (heq : s.idx = s.lenR) : (Memory.frame s.buf s.idx.toNat).length = (s.lenR.setWidth 8).toNat := by
    rw [Memory.frame_length, toNat_setWidth_eight, heq]
  rcases symbol_cases x with ⟨b, rfl⟩ | ⟨d, rfl⟩
  · rw [scanStep_body_byte, Memory.frame_length, toNat_setWidth_eight]
    rw [decode_byte_body b hst] at hd
    split_ifs at hd with hlt heq hacc <;> cases hd
    · rw [exec_bodyByte b s hidx] at he
      cases he
      have hne : s.idx.toNat ≠ s.lenR.toNat := Nat.ne_of_lt hlt
      rw [if_neg hne]
      refine ⟨rfl, ?_⟩
      rw [mode_of_body (by exact hst)]
      simp only [toNat_index_succ hidx, Memory.frame_write_next]
    · have heq : s.idx = s.lenR := heq
      have hacc : s.acc = b := hacc
      rw [exec_bodyLastOk b s hbody.lenR_le] at he
      cases he
      rw [if_pos (congrArg _ heq), scanFinish_concat _ _ (full heq), ← hbody.acc_eq, if_pos hacc, heq]
      exact ⟨rfl, rfl⟩
    · have heq : s.idx = s.lenR := heq
      have hacc : s.acc ≠ b := hacc
      cases he
      rw [if_pos (congrArg _ heq), scanFinish_concat _ _ (full heq), ← hbody.acc_eq, if_neg hacc]
      exact ⟨rfl, rfl⟩
  · rw [decode_timeout_body d hst] at hd
    cases hd
    cases he
    rw [scanStep, if_pos (symIsTimeout_ignores_data d), Memory.frame_length, BitVec.ofNat_toNat, BitVec.setWidth_eq]
    exact ⟨rfl, rfl⟩

/-- What `Stop` reports of a frame in progress, by the mode (R114). -/
def stopReport : Option ScanMode → List Output
  | some .afterStart => [.discard (.stopPartial 1)]
  | some (.body _ g) => [.discard (.stopPartial (BitVec.ofNat 7 g.length))]
  | some .hunting | none => []

theorem stopOutputs_eq_stopReport {s : State} (hs : s.Legal) : stopOutputs s = stopReport s.mode := by
  cases hst : s.st with
  | hunt => simp [stopOutputs, State.mode, stopReport, hst]
  | stopped => simp [stopOutputs, State.mode, stopReport, hst]
  | len =>
    obtain ⟨-, hidx, -⟩ := (legal_len_iff hst).1 hs
    simp [stopOutputs, State.mode, stopReport, hst, hidx]
  | body => simp [stopOutputs, State.mode, stopReport, hst]

/-- What an Event does to the mode, and what it puts out (R100). -/
def eventStep (q : BitVec 3) (m : Option ScanMode) : Option OpWord → List Output × Option ScanMode
  | some (.ctrl p) => if p.getLsbD 1 then ([], some .hunting) else (stopReport m, none)
  | some (.sym x) => m.elim ([], none) fun m => ((scanStep m q x).1, some (scanStep m q x).2)
  | _ => ([], m)

/-- A step from a legal state puts out, and becomes, what its Event says of the mode: nothing else of the state
counts. -/
theorem State.Legal.eventStep_of_step {s t : State} (hs : s.Legal) (h : step s = .next t) :
    (t.out, t.mode) = eventStep s.drive.qReady s.mode (fetch s) := by
  obtain ⟨u, -, hstep⟩ := step_cases h
  rcases hstep with ⟨hf, rfl⟩ | ⟨w, i, p, hf, hd, he, rfl⟩
  · rw [hf]
    rfl
  · change (p.out, p.mode) = _
    rw [hf]
    rcases fetch_cases hf with ⟨c, rfl, hc⟩ | ⟨x, xs, rfl, -⟩
    · rcases ctrl_pair_cases c hc with rfl | hrst
      · by_cases hst : s.st = .stopped
        · rw [decode_ctrl_stop_of_stopped hst] at hd
          cases hd
          cases he
          rw [mode_of_stopped hst, mode_of_stopped (by exact hst)]
          rfl
        · rw [decode_ctrl_stop_of_ne hst] at hd
          cases hd
          cases he
          rw [stopOutputs_eq_stopReport hs]
          rfl
      · rw [decode_ctrl_of_rst _ _ hrst] at hd
        cases hd
        cases he
        rw [eventStep, if_pos hrst]
        rfl
    · cases hst : s.st with
      | hunt =>
        obtain ⟨ho, hm⟩ := exec_scan_hunt hst hd he
        rw [ho, hm, mode_of_hunt hst]
        rfl
      | len =>
        obtain ⟨ho, hm⟩ := exec_scan_len hs hst hd he
        rw [ho, hm, mode_of_len hst]
        rfl
      | body =>
        obtain ⟨ho, hm⟩ := exec_scan_body hs hst hd he
        rw [ho, hm, mode_of_body hst]
        rfl
      | stopped =>
        rw [decode_sym_stopped x hst] at hd
        cases hd
        cases he
        rw [mode_of_stopped hst, mode_of_stopped (by exact hst)]
        rfl

end Sys2Proof.Machine
end

section
/-! SUPPORT. Runs over a stream as the scan equations see them: the equations that read on after a stream, what a
valid frame and noise do to them, and how far a mode is from HUNT (41_synchronizer.md R117, R118). -/

namespace Sys2Proof.Machine

/-- Which equations of R117 read on after a stream. -/
def scanEnd (m : ScanMode) (stream : List (BitVec 3 × SymbolWord)) : ScanMode :=
  stream.foldl (fun m x => (scanStep m x.1 x.2).2) m

theorem scanEnd_cons (m : ScanMode) (q : BitVec 3) (x : SymbolWord) (r : List (BitVec 3 × SymbolWord)) :
    scanEnd m ((q, x) :: r) = scanEnd (scanStep m q x).2 r := rfl

theorem scanEnd_append (m : ScanMode) (a b : List (BitVec 3 × SymbolWord)) :
    scanEnd m (a ++ b) = scanEnd (scanEnd m a) b := List.foldl_append

/-- Reading two streams one after the other. -/
theorem scanFrom_append (m : ScanMode) (a b : List (BitVec 3 × SymbolWord)) :
    scanFrom m (a ++ b) = scanFrom m a ++ scanFrom (scanEnd m a) b := by
  induction a generalizing m with
  | nil => cases m <;> rfl
  | cons x a ih =>
    obtain ⟨q, x⟩ := x
    rw [List.cons_append, scanFrom_cons, scanFrom_cons, ih, scanEnd_cons, List.append_assoc]

theorem byteStream_append (q : BitVec 3) (f g : List Byte) :
    byteStream q (f ++ g) = byteStream q f ++ byteStream q g := List.map_append

theorem byteStream_length (q : BitVec 3) (f : List Byte) : (byteStream q f).length = f.length := List.length_map _

/-- One symbol of an offered stream: the step is one step of the equations, and the rest is still offered. -/
theorem State.Legal.step_offer {s : State} {m : ScanMode} (hs : s.Legal) (hm : s.mode = some m) (q : BitVec 3)
    (x : SymbolWord) (r : List (BitVec 3 × SymbolWord)) :
    ∃ t : State, step (s.offer ((q, x) :: r)) = .next (t.offer r) ∧ t.Legal ∧ t.mode = some (scanStep m q x).2 ∧
      t.out = (scanStep m q x).1 := by
  have hs' : (s.offer ((q, x) :: r)).Legal := hs
  obtain ⟨t, h⟩ := hs'.exists_step
  have hevent := hs'.eventStep_of_step h
  have hm' : (s.offer ((q, x) :: r)).mode = some m := hm
  rw [fetch_offer, drive_offer, hm'] at hevent
  obtain ⟨hout, hmode⟩ := Prod.ext_iff.1 hevent
  have hready : rxReady (s.offer ((q, x) :: r)) = true := by
    have hst : s.st ≠ .stopped := fun hst => by simp [mode_of_stopped hst] at hm
    exact (rxReady_iff _).2 ⟨hst, rfl, rfl⟩
  have hrx : t.rx = r.map Prod.snd := by
    rw [rx_of_step h, hready]
    rfl
  exact ⟨t, by rw [h, offer_self hrx (inputs_of_step h)], hs'.of_step h, hmode, hout⟩

/-- A run over an offered stream, with more to come, is a run of the equations (R117). -/
theorem State.Legal.run_offer {s : State} {m : ScanMode} (hs : s.Legal) (hm : s.mode = some m)
    (stream rest : List (BitVec 3 × SymbolWord)) :
    ∃ t : State, runSteps stream.length (s.offer (stream ++ rest)) = .next (t.offer rest) ∧ t.Legal ∧
      t.mode = some (scanEnd m stream) ∧
      runOutputs stream.length (s.offer (stream ++ rest)) = scanFrom m stream := by
  induction stream generalizing s m with
  | nil => exact ⟨s, rfl, hs, hm, by cases m <;> rfl⟩
  | cons x stream ih =>
    obtain ⟨q, x⟩ := x
    obtain ⟨u, hstep, hu, hum, huo⟩ := hs.step_offer hm q x (stream ++ rest)
    obtain ⟨t, hrun, ht, htm, hto⟩ := ih hu hum
    refine ⟨t, (runSteps_succ hstep _).trans hrun, ht, htm, ?_⟩
    rw [List.length_cons, List.cons_append, runOutputs_succ hstep, hto, scanFrom_cons, ← huo]
    rfl

/-- A run over the whole of an offered stream. -/
theorem State.Legal.run_stream {s : State} {m : ScanMode} (hs : s.Legal) (hm : s.mode = some m)
    (stream : List (BitVec 3 × SymbolWord)) :
    ∃ t : State, runSteps stream.length (s.offer stream) = .next t ∧ t.Legal ∧
      t.mode = some (scanEnd m stream) ∧ t.rx = [] ∧
      runOutputs stream.length (s.offer stream) = scanFrom m stream := by
  obtain ⟨t, hrun, ht, htm, hout⟩ := hs.run_offer hm stream []
  rw [List.append_nil] at hrun hout
  exact ⟨t.offer [], hrun, ht, htm, rfl, hout⟩

/-- A run that ends in the mode of HUNT ends with cleared registers. -/
theorem State.Legal.cleared_of_hunting {t : State} (ht : t.Legal) (hm : t.mode = some .hunting) :
    t.st = .hunt ∧ t.idx = 0 ∧ t.lenR = 0 ∧ t.acc = 0x00 := by
  have hst := st_of_mode_hunting hm
  obtain ⟨-, hidx, hlenR, hacc⟩ := (legal_hunt_iff hst).1 ht
  exact ⟨hst, hidx, hlenR, hacc⟩

/-- A run that answers a next state took a first step that did. -/
theorem first_step_of_runSteps {k : Nat} {s t : State} (h : runSteps (k + 1) s = .next t) :
    ∃ u, step s = .next u ∧ runSteps k u = .next t := by
  rw [runSteps] at h
  cases hs : step s with
  | next u => exact ⟨u, rfl, by rwa [hs] at h⟩
  | fault r =>
    rw [hs] at h
    cases h
  | refused r =>
    rw [hs] at h
    cases h

/-- The Outputs of the last step of a run are the last of the run's. -/
theorem runOutputs_last {k : Nat} {s t : State} (h : runSteps (k + 1) s = .next t) :
    runOutputs (k + 1) s = runOutputs k s ++ t.out := by
  obtain ⟨u, hu, hrun⟩ := first_step_of_runSteps h
  induction k generalizing s u with
  | zero =>
    cases hrun
    rw [runOutputs_succ hu]
    exact List.append_nil _
  | succ k ih =>
    obtain ⟨v, hv, hrest⟩ := first_step_of_runSteps hrun
    rw [runOutputs_succ hu, runOutputs_succ hu, ih hrun v hv hrest, List.append_assoc]

/-- The bytes of a body before the last one are collected in silence (R109). -/
theorem scan_body (q : BitVec 3) {l : Byte} {g bs : List Byte} (h : g.length + bs.length = l.toNat) :
    scanFrom (.body l g) (byteStream q bs) = [] ∧ scanEnd (.body l g) (byteStream q bs) = .body l (g ++ bs) := by
  induction bs generalizing g with
  | nil => exact ⟨rfl, by rw [List.append_nil]; rfl⟩
  | cons b bs ih =>
    rw [List.length_cons] at h
    have hopen : ¬ g.length = l.toNat := by omega
    have hstep : scanStep (.body l g) q (symOfByte b) = ([], .body l (g ++ [b])) := by
      rw [scanStep_body_byte, if_neg hopen]
    obtain ⟨hout, hend⟩ := ih (g := g ++ [b]) (by rw [List.length_append, List.length_singleton]; omega)
    rw [byteStream, List.map_cons, scanFrom_cons, scanEnd_cons, hstep]
    exact ⟨hout, hend.trans (by rw [List.append_assoc, List.singleton_append])⟩

/-- The bytes of a frame before the last one are collected in silence (R102, R106, R109). -/
theorem scan_open_frame (q : BitVec 3) {l : Byte} {bs : List Byte} (hl : lengthLegal l = true)
    (h : bs.length + 2 = l.toNat) :
    scanFrom .hunting (byteStream q (0x02 :: l :: bs)) = [] ∧
    scanEnd .hunting (byteStream q (0x02 :: l :: bs)) = .body l (0x02 :: l :: bs) := by
  have hsof : scanStep .hunting q (symOfByte 0x02) = ([], .afterStart) := by
    rw [scanStep_hunting_byte, if_pos rfl]
  have hlen : scanStep .afterStart q (symOfByte l) = ([], .body l [0x02, l]) := by
    rw [scanStep_afterStart_byte, if_pos hl]
  obtain ⟨hout, hend⟩ := scan_body q (g := [0x02, l]) (bs := bs) (by rw [← h]; exact Nat.add_comm _ _)
  rw [byteStream, List.map_cons, List.map_cons, scanFrom_cons, scanEnd_cons, hsof, scanFrom_cons, scanEnd_cons, hlen]
  exact ⟨hout, hend⟩

/-- A valid frame as the parser reads it: the marker, a legal length, the body, and the sum of these (R135). -/
theorem exists_open_frame_of_valid {f : List Byte} (hf : validFrame f = true) :
    ∃ l bs, f = 0x02 :: l :: bs ++ [sum8 (0x02 :: l :: bs)] ∧ lengthLegal l = true ∧ bs.length + 2 = l.toNat := by
  obtain ⟨c, p, hp, rfl⟩ := (validFrame_iff_composed f).1 hf
  have hl : (BitVec.ofNat 8 (p.length + 3)).toNat = p.length + 3 := by
    rw [BitVec.toNat_ofNat]
    exact Nat.mod_eq_of_lt (by omega)
  exact ⟨BitVec.ofNat 8 (p.length + 3), c :: p, rfl, (lengthLegal_iff _).2 (by omega), hl.symm⟩

/-- The last byte of a valid frame completes it (R110). -/
theorem scanStep_last (q : BitVec 3) {l : Byte} {g : List Byte} (h : g.length = l.toNat) :
    scanStep (.body l g) q (symOfByte (sum8 g)) = (handoffOutputs q (g ++ [sum8 g]), .hunting) := by
  rw [scanStep_body_byte, if_pos h, scanFinish_concat q _ h, if_pos rfl]

/-- A valid frame is handed off, nothing else is put out, and the rest is read from HUNT (R138). -/
theorem scan_valid_frame (q : BitVec 3) {f : List Byte} (hf : validFrame f = true) :
    scanFrom .hunting (byteStream q f) = handoffOutputs q f ∧ scanEnd .hunting (byteStream q f) = .hunting := by
  obtain ⟨l, bs, hfeq, hl, hlen⟩ := exists_open_frame_of_valid hf
  obtain ⟨hout, hend⟩ := scan_open_frame q hl hlen
  have hlast := scanStep_last q (g := 0x02 :: l :: bs) hlen
  rw [hfeq, byteStream_append, scanFrom_append, scanEnd_append, hout, hend]
  change [] ++ scanFrom _ ((q, symOfByte _) :: []) = _ ∧ scanEnd _ ((q, symOfByte _) :: []) = _
  rw [scanFrom_cons, scanEnd_cons, hlast]
  exact ⟨List.append_nil _, rfl⟩

/-- Valid frames back to back (R174). -/
theorem scan_valid_frames (q : BitVec 3) {frames : List (List Byte)} (h : ∀ f ∈ frames, validFrame f = true) :
    scanFrom .hunting (byteStream q frames.flatten) = (frames.map (handoffOutputs q)).flatten ∧
    scanEnd .hunting (byteStream q frames.flatten) = .hunting := by
  induction frames with
  | nil => exact ⟨rfl, rfl⟩
  | cons f frames ih =>
    obtain ⟨hout, hend⟩ := scan_valid_frame q (h f List.mem_cons_self)
    obtain ⟨houts, hends⟩ := ih fun g hg => h g (List.mem_cons_of_mem f hg)
    rw [List.flatten_cons, byteStream_append, scanFrom_append, scanEnd_append, hout, hend, houts, hends]
    exact ⟨rfl, rfl⟩

/-- What a symbol of noise puts out (R103 to R105). -/
def noiseReport (x : BitVec 3 × SymbolWord) : Option Output :=
  if symIsTimeout x.2 then none
  else if symData x.2 = 0x0A ∨ symData x.2 = 0x0D then some (Output.discard (.noiseQuiet (symData x.2)))
  else some (Output.discard (.noise (symData x.2)))

/-- A symbol of noise leaves the parser in HUNT (R103 to R105). -/
theorem scanStep_noise {x : BitVec 3 × SymbolWord} (h : symIsTimeout x.2 = true ∨ symData x.2 ≠ 0x02) :
    scanStep .hunting x.1 x.2 = ((noiseReport x).toList, .hunting) := by
  obtain ⟨q, x⟩ := x
  rcases symbol_cases x with ⟨b, rfl⟩ | ⟨d, rfl⟩
  · have hsof : b ≠ 0x02 := by simpa using h
    rw [scanStep_hunting_byte, if_neg hsof, noiseReport]
    simp only [symIsTimeout_symOfByte, symData_symOfByte, Bool.false_eq_true, if_false]
    split_ifs <;> rfl
  · simp only [scanStep, noiseReport, symIsTimeout_ignores_data, if_true, Option.toList_none]

/-- Noise puts out one discard a byte and is followed from HUNT (R103 to R105). -/
theorem scan_noise {noise : List (BitVec 3 × SymbolWord)}
    (h : ∀ x ∈ noise, symIsTimeout x.2 = true ∨ symData x.2 ≠ 0x02) :
    scanFrom .hunting noise = noise.filterMap noiseReport ∧ scanEnd .hunting noise = .hunting := by
  induction noise with
  | nil => exact ⟨rfl, rfl⟩
  | cons x noise ih =>
    obtain ⟨hout, hend⟩ := ih fun y hy => h y (List.mem_cons_of_mem x hy)
    have hx := scanStep_noise (h x List.mem_cons_self)
    rw [scanFrom_cons, scanEnd_cons, hx, hout, hend]
    cases hr : noiseReport x with
    | none => exact ⟨(List.filterMap_cons_none hr).symm, rfl⟩
    | some o => exact ⟨(List.filterMap_cons_some hr).symm, rfl⟩

/-- How many symbols at most bring a mode back to HUNT (R118): 64 after the marker, then one for each byte that the
length still calls for. -/
def ScanMode.distance : ScanMode → Nat
  | .hunting => 0
  | .afterStart => 64
  | .body l g => l.toNat + 1 - g.length

/-- What the modes of legal states satisfy (R35): in BODY no more bytes are collected than a legal length calls for.
-/
def ScanMode.InBounds : ScanMode → Prop
  | .hunting | .afterStart => True
  | .body l g => 2 ≤ g.length ∧ g.length ≤ l.toNat ∧ l.toNat ≤ 64

theorem State.Legal.mode_inBounds {s : State} {m : ScanMode} (hs : s.Legal) (hm : s.mode = some m) : m.InBounds := by
  cases hst : s.st with
  | hunt =>
    obtain rfl : ScanMode.hunting = m := Option.some.inj ((mode_of_hunt hst).symm.trans hm)
    trivial
  | len =>
    obtain rfl : ScanMode.afterStart = m := Option.some.inj ((mode_of_len hst).symm.trans hm)
    trivial
  | stopped =>
    rw [mode_of_stopped hst] at hm
    cases hm
  | body =>
    obtain ⟨-, hbody⟩ := (legal_body_iff hst).1 hs
    obtain rfl := Option.some.inj ((mode_of_body hst).symm.trans hm)
    rw [ScanMode.InBounds, Memory.frame_length, toNat_setWidth_eight]
    exact ⟨hbody.two_le_idx, hbody.idx_le_lenR, hbody.lenR_le⟩

/-- Every mode is within 64 symbols of HUNT. -/
theorem ScanMode.InBounds.distance_le {m : ScanMode} (h : m.InBounds) : m.distance ≤ 64 := by
  cases m with
  | hunting => exact Nat.zero_le 64
  | afterStart => exact Nat.le_refl 64
  | body l g =>
    obtain ⟨hmin, -, hmax⟩ := h
    rw [ScanMode.distance]
    omega

/-- Every symbol read outside HUNT brings HUNT nearer. -/
theorem ScanMode.InBounds.distance_scanStep {m : ScanMode} (h : m.InBounds) (hm : m ≠ .hunting) (q : BitVec 3)
    (x : SymbolWord) : (scanStep m q x).2.distance < m.distance := by
  cases m with
  | hunting => exact absurd rfl hm
  | afterStart =>
    simp only [scanStep]
    split_ifs with ht hl
    · exact Nat.succ_pos 63
    · have := (lengthLegal_iff _).1 hl
      simp only [ScanMode.distance, List.length_cons, List.length_nil]
      omega
    · exact Nat.succ_pos 63
  | body l g =>
    obtain ⟨-, hle, -⟩ := h
    simp only [scanStep]
    split_ifs with ht hfull
    · simp only [ScanMode.distance]
      omega
    · simp only [ScanMode.distance]
      omega
    · simp only [ScanMode.distance, List.length_append, List.length_singleton]
      omega

/-- As many symbols as the distance bring a legal state back to HUNT (R118). -/
theorem State.Legal.back_to_hunt {s : State} {m : ScanMode} (hs : s.Legal) (hm : s.mode = some m)
    {stream : List (BitVec 3 × SymbolWord)} (hlen : m.distance ≤ stream.length) :
    ∃ k t, k ≤ m.distance ∧ runSteps k (s.offer stream) = .next t ∧ t.st = .hunt := by
  induction stream generalizing s m with
  | nil =>
    have hhunt : m = .hunting := by
      by_contra hne
      have := (hs.mode_inBounds hm).distance_scanStep hne 0 0
      rw [List.length_nil] at hlen
      omega
    exact ⟨0, s.offer [], Nat.zero_le _, rfl, st_of_mode_hunting (hm.trans (congrArg some hhunt))⟩
  | cons x stream ih =>
    obtain ⟨q, x⟩ := x
    by_cases hhunt : m = .hunting
    · exact ⟨0, s.offer ((q, x) :: stream), Nat.zero_le _, rfl, st_of_mode_hunting (hm.trans (congrArg some hhunt))⟩
    · have hnear := (hs.mode_inBounds hm).distance_scanStep hhunt q x
      obtain ⟨u, hstep, hu, hum, -⟩ := hs.step_offer hm q x stream
      rw [List.length_cons] at hlen
      obtain ⟨k, t, hk, hrun, ht⟩ := ih hu hum (by omega)
      exact ⟨k + 1, t, by omega, (runSteps_succ hstep k).trans hrun, ht⟩

/-- The bytes accepted and the symbols still offered: a step from a legal state adds to the first what it takes from
the second, at most. -/
theorem RowEffect.idx_add_rx_le {s t : State} {i : Instr} (h : RowEffect s i t) (hs : s.Legal)
    (hsel : i.selectedIn s.view = true) (hrx : TakesSymbol i → s.rx ≠ []) :
    t.idx.toNat + t.rx.length ≤ s.idx.toNat + s.rx.length := by
  have htail : s.rx.tail.length ≤ s.rx.length := by
    rw [List.length_tail]
    exact Nat.sub_le _ _
  have htake (hi : TakesSymbol i) : s.rx.tail.length + 1 = s.rx.length := by
    have := List.length_pos_of_ne_nil (hrx hi)
    rw [List.length_tail]
    omega
  cases h with
  | huntSof =>
    have := htake ⟨nofun, nofun, nofun⟩
    change 1 + s.rx.tail.length ≤ _
    omega
  | lenOk l hl =>
    obtain ⟨-, hidx, -⟩ := (legal_len_iff (eq_of_beq hsel)).1 hs
    have := htake ⟨nofun, nofun, nofun⟩
    change 2 + s.rx.tail.length ≤ _
    rw [hidx]
    change _ ≤ 1 + s.rx.length
    omega
  | bodyByte b hidx =>
    have := htake ⟨nofun, nofun, nofun⟩
    change (s.idx + 1).toNat + s.rx.tail.length ≤ _
    rw [toNat_index_succ hidx]
    omega
  | bodyLastOk | raise =>
    change 0 + s.rx.tail.length ≤ _
    omega
  | pass => exact Nat.add_le_add_left htail _
  | reset | stop =>
    change 0 + s.rx.length ≤ _
    omega
  | stoppedHold => exact Nat.le_refl _

/-- A step from a legal state accepts no more bytes of a frame than it takes symbols. -/
theorem State.Legal.idx_add_rx_le {s t : State} (hs : s.Legal) (h : step s = .next t) :
    t.idx.toNat + t.rx.length ≤ s.idx.toNat + s.rx.length := by
  obtain ⟨u, -, hstep⟩ := step_effect h
  rcases hstep with ⟨-, rfl⟩ | ⟨w, i, p, hf, hd, hsel, heff, rfl⟩
  · exact Nat.le_refl _
  · refine heff.idx_add_rx_le hs hsel fun htakes hnil => ?_
    rcases fetch_cases hf with ⟨c, rfl, -⟩ | ⟨x, xs, rfl, hrx⟩
    · exact not_takesSymbol_of_decode_ctrl hd htakes
    · rw [hnil] at hrx
      cases hrx

/-- A step that hands a frame off takes the last of its four bytes or more. -/
theorem State.Legal.handoff_idx {s t : State} (hs : s.Legal) (h : step s = .next t)
    (hc : t.out.any Output.isClassified = true) : 3 ≤ s.idx.toNat ∧ t.rx.length + 1 = s.rx.length := by
  rcases out_of_step h with hnil | ⟨d, hd⟩ | ⟨w, b, hf, hd, hst, heq, -⟩
  · simp [hnil] at hc
  · rw [hd] at hc
    cases hc
  · obtain ⟨-, hbody⟩ := (legal_body_iff hst).1 hs
    refine ⟨heq ▸ hbody.three_le_lenR, ?_⟩
    rcases fetch_cases hf with ⟨c, rfl, -⟩ | ⟨x, xs, rfl, hrx⟩
    · exact absurd ⟨nofun, nofun, nofun⟩ (not_takesSymbol_of_decode_ctrl hd)
    · obtain ⟨hr, hs', hv, -⟩ := (fetch_eq_sym_iff s x).1 hf
      have hready : rxReady s = true := (rxReady_iff s).2 ⟨by simp [hst], hr, hs'⟩
      rw [rx_of_step h, hready, hv, hrx]
      rfl

/-- What two legal states agree on when nothing that the parser puts out can tell them apart. -/
def SameFuture (s₁ s₂ : State) : Prop := s₁.mode = s₂.mode ∧ s₁.rx = s₂.rx ∧ s₁.inputs = s₂.inputs

theorem mode_eq_none_iff (s : State) : s.mode = none ↔ s.st = .stopped := by
  cases hst : s.st <;> simp [State.mode, hst]

/-- Two such states put out the same in a step, and agree again after it (R36). -/
theorem SameFuture.step {s₁ s₂ t₁ t₂ : State} (h : SameFuture s₁ s₂) (hs₁ : s₁.Legal) (hs₂ : s₂.Legal)
    (h₁ : step s₁ = .next t₁) (h₂ : step s₂ = .next t₂) : t₁.out = t₂.out ∧ SameFuture t₁ t₂ := by
  obtain ⟨hmode, hrx, hin⟩ := h
  have hdrive : s₁.drive = s₂.drive := by rw [State.drive, State.drive, hin]
  have hfetch : fetch s₁ = fetch s₂ := by rw [fetch, fetch, hdrive, hrx]
  have hst : s₁.st = .stopped ↔ s₂.st = .stopped := by rw [← mode_eq_none_iff, ← mode_eq_none_iff, hmode]
  have hready : rxReady s₁ = rxReady s₂ := by rw [Bool.eq_iff_iff, rxReady_iff, rxReady_iff, hdrive, Ne, Ne, hst]
  have hevent : (t₁.out, t₁.mode) = (t₂.out, t₂.mode) := by
    rw [hs₁.eventStep_of_step h₁, hs₂.eventStep_of_step h₂, hdrive, hmode, hfetch]
  obtain ⟨hout, hmode'⟩ := Prod.ext_iff.1 hevent
  refine ⟨hout, hmode', ?_, ?_⟩
  · rw [rx_of_step h₁, rx_of_step h₂, hready, hdrive, hrx]
  · rw [inputs_of_step h₁, inputs_of_step h₂, hin]

end Sys2Proof.Machine
end

section
/-! PROOFS. Streams of symbols: what the machine puts out for them, how valid frames and noise are read, and how far
HUNT and the next hand-off are (41_synchronizer.md R117, R118; 43_codec.md R138; 42_classifier.md R127; 10_state.md
R36). -/

namespace Sys2Proof.Proofs

open Sys2Proof Sys2Proof.Machine

/-- Settles O49. The bytes before the last one are read in silence, so all that is put out is the last step's. -/
theorem validFrameIsDelivered : Obligations.ValidFrameIsDelivered := by
  unfold Obligations.ValidFrameIsDelivered
  intro s f q hs hst hf
  obtain ⟨t, hrun, ht, htm, hrx, hout⟩ := hs.run_stream (mode_of_hunt hst) (byteStream q f)
  obtain ⟨hscan, hend⟩ := scan_valid_frame q hf
  rw [byteStream_length] at hrun hout
  rw [hscan] at hout
  rw [hend] at htm
  have hlast : t.out = handoffOutputs q f := by
    obtain ⟨l, bs, hfeq, hl, hlen⟩ := exists_open_frame_of_valid hf
    obtain ⟨-, -, -, -, hsilent⟩ :=
      hs.run_offer (mode_of_hunt hst) (byteStream q (0x02 :: l :: bs)) (byteStream q [sum8 (0x02 :: l :: bs)])
    rw [← byteStream_append, ← hfeq, byteStream_length, (scan_open_frame q hl hlen).1] at hsilent
    have hk : f.length = (0x02 :: l :: bs).length + 1 := by
      rw [hfeq, List.length_append, List.length_singleton]
    rw [hk] at hrun hout
    rw [runOutputs_last hrun, hsilent] at hout
    exact hout
  refine ⟨hout, t, hrun, st_of_mode_hunting htm, hlast, hrx, ?_⟩
  rw [hlast]
  exact List.mem_cons_self

/-- Settles O50, by induction on the frames. -/
theorem backToBackFramesAreDelivered : Obligations.BackToBackFramesAreDelivered := by
  unfold Obligations.BackToBackFramesAreDelivered
  intro s frames q hs hst hframes
  obtain ⟨t, hrun, ht, htm, hrx, hout⟩ := hs.run_stream (mode_of_hunt hst) (byteStream q frames.flatten)
  obtain ⟨hscan, hend⟩ := scan_valid_frames q hframes
  rw [byteStream_length] at hrun hout
  obtain ⟨hst', hidx, hlenR, hacc⟩ := ht.cleared_of_hunting (hend ▸ htm)
  exact ⟨hout.trans hscan, t, hrun, hst', hidx, hlenR, hacc, hrx⟩

/-- Settles O51, by induction on the stream, a symbol a step. -/
theorem machineAgreesWithScan : Obligations.MachineAgreesWithScan := by
  unfold Obligations.MachineAgreesWithScan
  intro s stream hs hst
  obtain ⟨t, -, -, -, -, hout⟩ := hs.run_stream (mode_of_hunt hst) stream
  exact hout

/-- Settles O52. Noise is read in HUNT and leaves the parser there, and the frame is read from there. -/
theorem noiseThenFrameResynchronises : Obligations.NoiseThenFrameResynchronises := by
  unfold Obligations.NoiseThenFrameResynchronises
  intro s noise f q hs hst hf hnoise
  obtain ⟨t, hrun, ht, htm, hrx, hout⟩ := hs.run_stream (mode_of_hunt hst) (noise ++ byteStream q f)
  obtain ⟨hnoiseOut, hnoiseEnd⟩ := scan_noise hnoise
  obtain ⟨hframeOut, hframeEnd⟩ := scan_valid_frame q hf
  rw [List.length_append, byteStream_length] at hrun hout
  rw [scanFrom_append, hnoiseOut, hnoiseEnd, hframeOut] at hout
  rw [scanEnd_append, hnoiseEnd, hframeEnd] at htm
  obtain ⟨hst', hidx, hlenR, hacc⟩ := ht.cleared_of_hunting htm
  exact ⟨hout, t, hrun, hst', hidx, hlenR, hacc, hrx⟩

/-- Settles O53. The distance to HUNT is at most 64, and every symbol lowers it. -/
theorem backToHuntWithin64Symbols : Obligations.BackToHuntWithin64Symbols := by
  unfold Obligations.BackToHuntWithin64Symbols
  intro s stream hs hst hlen
  obtain ⟨m, hm⟩ := Option.ne_none_iff_exists'.1 (mt (mode_eq_none_iff s).1 hst)
  have hdist := (hs.mode_inBounds hm).distance_le
  obtain ⟨k, t, hk, hrun, ht⟩ := hs.back_to_hunt hm (hdist.trans hlen)
  exact ⟨k, t, hk.trans hdist, hrun, ht⟩

/-- A hand-off at the end of a run takes three symbols more than were accepted when the run began, and its own. -/
theorem handoff_of_run {k : Nat} {s t : State} (hs : s.Legal) (h : runSteps (k + 1) s = .next t)
    (hc : t.out.any Output.isClassified = true) : t.rx.length + 4 ≤ s.idx.toNat + s.rx.length := by
  obtain ⟨u, hu, hrun⟩ := first_step_of_runSteps h
  induction k generalizing s u with
  | zero =>
    cases hrun
    obtain ⟨hidx, hrx⟩ := hs.handoff_idx hu hc
    omega
  | succ k ih =>
    obtain ⟨v, hv, hrest⟩ := first_step_of_runSteps hrun
    exact (ih (hs.of_step hu) hrun v hv hrest).trans (hs.idx_add_rx_le hu)

/-- Settles O54. In HUNT no byte is accepted yet. -/
theorem handoffsAreFourSymbolsApart : Obligations.HandoffsAreFourSymbolsApart := by
  unfold Obligations.HandoffsAreFourSymbolsApart
  intro k s t hs hst h hc
  obtain ⟨-, hidx, -⟩ := (legal_hunt_iff hst).1 hs
  simpa [hidx] using handoff_of_run hs h hc

/-- Legal states with the same future put out the same for ever. -/
theorem runOutputs_of_sameFuture (k : Nat) {s₁ s₂ : State} (hs₁ : s₁.Legal) (hs₂ : s₂.Legal) (h : SameFuture s₁ s₂) :
    runOutputs k s₁ = runOutputs k s₂ := by
  induction k generalizing s₁ s₂ with
  | zero => rfl
  | succ k ih =>
    obtain ⟨t₁, h₁⟩ := hs₁.exists_step
    obtain ⟨t₂, h₂⟩ := hs₂.exists_step
    obtain ⟨hout, hfuture⟩ := h.step hs₁ hs₂ h₁ h₂
    rw [runOutputs_succ h₁, runOutputs_succ h₂, hout, ih (hs₁.of_step h₁) (hs₂.of_step h₂) hfuture]

/-- Settles O55. Two states in HUNT have the same mode, whatever their buffers hold. -/
theorem staleStateIsUnobservable : Obligations.StaleStateIsUnobservable := by
  unfold Obligations.StaleStateIsUnobservable
  intro k s₁ s₂ hs₁ hs₂ hst₁ hst₂ hrx hin
  exact runOutputs_of_sameFuture k hs₁ hs₂ ⟨(mode_of_hunt hst₁).trans (mode_of_hunt hst₂).symm, hrx, hin⟩

end Sys2Proof.Proofs
end
